-- ==== Sys2Proof/Word.lean ====
section
/-! DEFINITION. The word types of CORE, each of the one width 00_scope.md R7 fixes, and text. A sequence of n bits
(00_scope.md R9) is a `BitVec n` whose position p is vector bit n-1-p (R12): that is `BitVec.getMsbD`, and `++` of
sequences is `++` of `BitVec`. -/

namespace Sys2Proof

/-- UID_W = 32: the card identifier on `uid_i`, format PORT32 (R7, 30_encoding.md R61). -/
abbrev CardId := BitVec 32

/-- NIB_W = 4: one hex digit, format NIB4 (R7, 30_encoding.md R63). -/
abbrev Nibble := BitVec 4

/-- GROUP_W = 5: four data bits and their row parity, format PN5 (R7, 30_encoding.md R63). -/
abbrev ParityNibble := BitVec 5

/-- DF_W = 50: ten rows of five bits, format DF50 (R7, 30_encoding.md R63). -/
abbrev DataField := BitVec 50

/-- CP_W = 4: one parity bit for each data column, column 0 first, format CP4 (R7, 30_encoding.md R63). -/
abbrev ColumnParity := BitVec 4

/-- STREAM_W = 64: the output on `stream_o`, format STREAM64 (R7, 30_encoding.md R64). -/
abbrev Em4100Stream := BitVec 64

/-- Host text: a list of Unicode characters of any length (45_host_side.md R191; DESIGN CHOICE: notes/assumptions/12.md). -/
abbrev Text := List Char

end Sys2Proof
end

