-- ==== Sys2Proof/Config.lean ====
section
/-! DEFINITION. What the spec leaves open: one parameter and one free value. Neither has a body, so no proof can
rest on a value of it. -/

namespace Sys2Proof

/-- T_PD, the propagation delay of CORE: an OPEN parameter (70_reset_and_hazards.md R263, 93 U3), in time units the spec
does not fix (DESIGN CHOICE: notes/assumptions/6.md). -/
opaque Config.tPD : Nat

/-- What `stream_o` shows at an instant at which it is not settled: any 64-bit value (70_reset_and_hazards.md R260 and
R264, 93 U1). A FREE VALUE (DEDUCED: notes/assumptions/5.md). -/
opaque Config.unsettledStream : Nat → Em4100Stream

end Sys2Proof
end

