-- ==== Sys2Proof/Syntax.lean ====
section
/-! DEFINITION. The instructions (one constructor for each row of spec/opcode_table.json), how the host puts one to the
machine (a launch), and the host's other actions. -/

namespace Sys2Proof

/-- NIBBLE_EXPAND's two operand forms: the 4-bit value CORE takes (41_nibble_parity.md R101) and the single character the
text form takes (45_host_side.md R199). -/
inductive ExpandOperand where
  | nibble (n : Nibble)
  | hexChar (c : Char)
  deriving DecidableEq, Repr

/-- One constructor for each row of opcode_table.json. ENCODE is the one operation a port selects; the sub-blocks are
tested alone and the host rows are the host's software (30_encoding.md R60, 45_host_side.md). -/
inductive Instr where
  /-- ENCODE (44_stream_encode.md R161). -/
  | encode (u : CardId)
  /-- HEX_SLICE (40_hex_digits.md R80). -/
  | hexSlice (u : CardId)
  /-- ROW_PARITY (41_nibble_parity.md R100). -/
  | rowParity (n : Nibble)
  /-- NIBBLE_EXPAND (41_nibble_parity.md R101, 45_host_side.md R199). -/
  | nibbleExpand (x : ExpandOperand)
  /-- DATA_FIELD (42_data_field.md R120). -/
  | dataField (u : CardId)
  /-- COLUMN_PARITY (43_column_parity.md R140): any 50-bit field is a valid operand. -/
  | columnParity (d : DataField)
  /-- STREAM_ASSEMBLE (44_stream_encode.md R160). -/
  | streamAssemble (d : DataField) (c : ColumnParity)
  /-- VALIDATE (45_host_side.md R191). -/
  | validate (t : Text)
  /-- HEX_TEXT (45_host_side.md R193). -/
  | hexText (u : CardId)
  /-- FORMAT (45_host_side.md R194): any 64-bit word is a valid operand. -/
  | format (w : Em4100Stream)
  /-- CONVERT (45_host_side.md R197). -/
  | convert (t : Text)
  deriving DecidableEq, Repr

/-- Whose operand input a launch uses. No opcode field selects an operation (30_encoding.md R60), so what is run is a
matter of where the operand is put: CORE's port, a sub-block's input on a bench, or a host routine
(DESIGN CHOICE: notes/assumptions/15.md). -/
inductive Block where
  | core
  | hexSlicer
  | rowParityGenerator
  | nibbleExpander
  | dataFieldAssembler
  | columnParityGenerator
  | streamAssembler
  | validator
  | hexTextRenderer
  | formatter
  | converter
  deriving DecidableEq, Repr

/-- What a launch puts on that input. -/
inductive Payload where
  /-- `nbits` wires, every one at a defined level, read as a number with bit 0 least significant (00_scope.md R12). -/
  | bits (nbits w : Nat)
  /-- Host text. -/
  | text (t : Text)
  /-- Some wire undriven or at an unknown level (92 D18, 93 U2). -/
  | undefinedLevel
  deriving DecidableEq, Repr

/-- One transaction the host asks for (10_state.md R30): an operand on an input. -/
structure Launch where
  block : Block
  payload : Payload
  deriving DecidableEq, Repr

/-- Why a launch stands for no instruction. -/
inductive DecodeError where
  /-- The input has `want` wires and the payload `got` (30_encoding.md R67: the widths are fixed). -/
  | wrongWidth (want got : Nat)
  /-- The number needs more than `nbits` bits, so no level of the wires stands for it. -/
  | valueTooWide (nbits w : Nat)
  /-- Text on an input that takes bits. -/
  | textOnBitInput
  /-- Bits on an input that takes text. -/
  | bitsOnTextInput
  /-- The expander's text form takes one character (45_host_side.md R199). -/
  | notOneCharacter
  /-- That character is none of 0-9 and a-f (45_host_side.md R199, 93 U6). -/
  | notHexDigit (c : Char)
  /-- Some wire has no defined level (93 U2). -/
  | undefinedLevel
  deriving DecidableEq, Repr

/-- What the host does, one action a step (30_encoding.md R68, 45_host_side.md R198). -/
inductive HostAction where
  /-- Run one transaction. -/
  | launch (l : Launch)
  /-- Change the level on `uid_i`; `none` leaves some bit at no defined level. -/
  | drive (level : Option CardId)
  /-- Keep `uid_i` stable for `t` more time units. -/
  | hold (t : Nat)
  /-- Keep `uid_i` stable for at least T_PD. -/
  | settle
  /-- Read `stream_o`. -/
  | sample
  deriving DecidableEq, Repr

end Sys2Proof
end

