-- ==== Sys2Proof/WellFormed.lean ====
section
/-! DEFINITION. Which instruction terms stand for something. Every operand of a fixed width is valid at every value
(30_encoding.md R66; opcode_table.json), and a host call takes any text, so the one check is on the text form of
NIBBLE_EXPAND. -/

namespace Sys2Proof

/-- The sixteen characters of the expander's text form: `'0'`-`'9'` and `'a'`-`'f'`, ASCII (45_host_side.md R199, 92 D22). -/
def isLowerHexChar (c : Char) : Bool :=
  (48 ≤ c.toNat && c.toNat ≤ 57) || (97 ≤ c.toNat && c.toNat ≤ 102)

/-- The checks an instruction term passes. -/
def Instr.wellFormed : Instr → Bool
  | .encode _ => true
  | .hexSlice _ => true
  | .rowParity _ => true
  | .nibbleExpand (.nibble _) => true
  | .nibbleExpand (.hexChar c) => isLowerHexChar c
  | .dataField _ => true
  | .columnParity _ => true
  | .streamAssemble _ _ => true
  | .validate _ => true
  | .hexText _ => true
  | .format _ => true
  | .convert _ => true

end Sys2Proof
end

