-- ==== Sys2Proof/Decode.lean ====
section
/-! DEFINITION. From launches to instructions and back. The operand formats are those of 30_encoding.md R61 to R64 and
opcode_table.json; nothing in an operand's bits names an operation (30_encoding.md R60, R65). -/

namespace Sys2Proof

/-- The `k` bits on `k` wires, or why the payload is not that. -/
def wiresOf (k nbits w : Nat) : Except DecodeError (BitVec k) :=
  if nbits ≠ k then .error (.wrongWidth k nbits)
  else if w < 2 ^ k then .ok (BitVec.ofNat k w)
  else .error (.valueTooWide k w)

/-- Operands of a fixed width, each at the width opcode_table.json gives its row. STREAM_ASSEMBLE's 54 bits hold the
data field in bits 53:4 and the column parity in bits 3:0. -/
def decodeBits (b : Block) (nbits w : Nat) : Except DecodeError Instr :=
  match b with
  | .core => (wiresOf 32 nbits w).map .encode
  | .hexSlicer => (wiresOf 32 nbits w).map .hexSlice
  | .rowParityGenerator => (wiresOf 4 nbits w).map .rowParity
  | .nibbleExpander => (wiresOf 4 nbits w).map fun n => .nibbleExpand (.nibble n)
  | .dataFieldAssembler => (wiresOf 32 nbits w).map .dataField
  | .columnParityGenerator => (wiresOf 50 nbits w).map .columnParity
  | .streamAssembler => (wiresOf 54 nbits w).map fun v => .streamAssemble (v.extractLsb' 4 50) (v.extractLsb' 0 4)
  | .validator => .error .bitsOnTextInput
  | .hexTextRenderer => (wiresOf 32 nbits w).map .hexText
  | .formatter => (wiresOf 64 nbits w).map .format
  | .converter => .error .bitsOnTextInput

/-- Text operands: the host calls that take a string, and the expander's text form, which takes one character of its
domain and refuses any other (45_host_side.md R199). -/
def decodeText (b : Block) (t : Text) : Except DecodeError Instr :=
  match b with
  | .core => .error .textOnBitInput
  | .hexSlicer => .error .textOnBitInput
  | .rowParityGenerator => .error .textOnBitInput
  | .nibbleExpander =>
    match t with
    | [c] => if isLowerHexChar c then .ok (.nibbleExpand (.hexChar c)) else .error (.notHexDigit c)
    | _ => .error .notOneCharacter
  | .dataFieldAssembler => .error .textOnBitInput
  | .columnParityGenerator => .error .textOnBitInput
  | .streamAssembler => .error .textOnBitInput
  | .validator => .ok (.validate t)
  | .hexTextRenderer => .error .textOnBitInput
  | .formatter => .error .textOnBitInput
  | .converter => .ok (.convert t)

/-- The instruction a launch stands for, or why it stands for none. An input at no defined level has no run
(92 D18, 93 U2). -/
def decode (l : Launch) : Except DecodeError Instr :=
  match l.payload with
  | .bits nbits w => decodeBits l.block nbits w
  | .text t => decodeText l.block t
  | .undefinedLevel => .error .undefinedLevel

/-- A `k`-bit operand as a payload. -/
def payloadOf {k : Nat} (v : BitVec k) : Payload :=
  .bits k v.toNat

/-- The launch that stands for an instruction: its operand in the format of its row of opcode_table.json, on its own
input. -/
def encode : Instr → Launch
  | .encode u => ⟨.core, payloadOf u⟩
  | .hexSlice u => ⟨.hexSlicer, payloadOf u⟩
  | .rowParity n => ⟨.rowParityGenerator, payloadOf n⟩
  | .nibbleExpand (.nibble n) => ⟨.nibbleExpander, payloadOf n⟩
  | .nibbleExpand (.hexChar c) => ⟨.nibbleExpander, .text [c]⟩
  | .dataField u => ⟨.dataFieldAssembler, payloadOf u⟩
  | .columnParity d => ⟨.columnParityGenerator, payloadOf d⟩
  | .streamAssemble d c => ⟨.streamAssembler, payloadOf (d ++ c)⟩
  | .validate t => ⟨.validator, .text t⟩
  | .hexText u => ⟨.hexTextRenderer, payloadOf u⟩
  | .format w => ⟨.formatter, payloadOf w⟩
  | .convert t => ⟨.converter, .text t⟩

/-- The launch of a word of `nbits` bits on CORE's one input port, the only place where a word alone selects an operation
(30_encoding.md R60, R65; DESIGN CHOICE: notes/assumptions/15.md). -/
def portLaunch (nbits w : Nat) : Launch :=
  ⟨.core, .bits nbits w⟩

/-- The instruction the decoder reads from a bare word: ENCODE for every 32-bit word, none for any other width, since no
word selects a sub-block or a host call (30_encoding.md R60, R65, R67). -/
def decodeTableWord (nbits w : Nat) : Option Instr :=
  (decode (portLaunch nbits w)).toOption

end Sys2Proof
end

