-- ==== Sys2Proof/Machine/State.lean ====
section
/-! DEFINITION. What the machine holds, what a transaction gives back, and how a step can stop. CORE holds no
architectural state (10_state.md R21); the level on its input, how long that level has been stable, and the host's side
of the conversation are what a run consists of (10_state.md R30, 45_host_side.md R198). -/

namespace Sys2Proof.Machine

/-- The success response of CONVERT (45_host_side.md R195). -/
structure Response where
  inputUid : Text
  hexValue : Text
  em4100 : Text
  deriving DecidableEq, Repr

/-- What the host gets back from one transaction, in the result format of the operation's row of opcode_table.json. -/
inductive Observation where
  /-- ENCODE, or a sample of the settled port: `stream_o` (44_stream_encode.md R161). -/
  | stream (w : Em4100Stream)
  /-- HEX_SLICE: `N[0..8)` (40_hex_digits.md R80). -/
  | nibbles (ns : Vector Nibble 8)
  /-- ROW_PARITY: `rp(n)` (41_nibble_parity.md R100). -/
  | rowParity (p : Bool)
  /-- NIBBLE_EXPAND on a 4-bit value: `pn(n)` (41_nibble_parity.md R101). -/
  | parityNibble (g : ParityNibble)
  /-- NIBBLE_EXPAND on a character: the 5-character text (45_host_side.md R199). -/
  | parityText (t : Text)
  /-- DATA_FIELD: `DF(u)` (42_data_field.md R120). -/
  | dataField (d : DataField)
  /-- COLUMN_PARITY: `CP(D)` (43_column_parity.md R140). -/
  | columnParity (c : ColumnParity)
  /-- STREAM_ASSEMBLE alone: `S(D, C)`, not a value of CORE's port (44_stream_encode.md R160, DESIGN CHOICE: notes/assumptions/3.md). -/
  | assembled (w : Em4100Stream)
  /-- VALIDATE, on success (45_host_side.md R191). -/
  | cardId (u : CardId)
  /-- HEX_TEXT (45_host_side.md R193). -/
  | hexText (t : Text)
  /-- FORMAT (45_host_side.md R194). -/
  | display (t : Text)
  /-- CONVERT, on success (45_host_side.md R195). -/
  | response (r : Response)
  /-- VALIDATE or CONVERT, on failure: the one error kind, with nothing beside it (45_host_side.md R196). -/
  | invalidUid
  deriving DecidableEq, Repr

/-- How long `uid_i` has been stable (70_reset_and_hazards.md R263, R264). -/
inductive Stability where
  /-- For `t` time units since it last changed. -/
  | held (t : Nat)
  /-- For at least T_PD. -/
  | settled
  deriving DecidableEq, Repr

/-- The machine: what the host still has to do, the level on the input port and how long it has been stable, what the host
got back (newest first), and the counter that tells unsettled instants apart. -/
structure State where
  pending : List HostAction
  uidI : Option CardId
  stability : Stability
  observed : List Observation
  instant : Nat
  deriving DecidableEq, Repr

/-- There is no fault: CORE raises no exception for any input, no trap mechanism exists (60_exceptions.md R230, R234), and
the host's InvalidUid is a value it returns. -/
inductive Fault where
  deriving DecidableEq, Repr

/-- Why a step has no meaning. -/
inductive Refusal where
  /-- Raised by a dispatch arm that has no meaning yet; none is left. Safe. -/
  | notModelled (mnemonic : String)
  /-- Raised by the step when a launch stands for no instruction. Safe: no such operand can stand on that input, or the
  spec tells the model to refuse it (93 U2, U6). -/
  | undecodable (e : DecodeError)
  /-- Raised by NIBBLE_EXPAND's text form on a character outside its domain (45_host_side.md R199, 93 U6). Safe. -/
  | notHexDigit (c : Char)
  /-- Raised by a sample while some bit of `uid_i` has no defined level (45_host_side.md R198, 93 U2). Safe. -/
  | inputUndriven
  /-- Raised by a sample before `uid_i` has been stable for T_PD: the host broke its duty, and "A model of CORE gives no
  meaning to such a transaction" (45_host_side.md R198, 70_reset_and_hazards.md R264). Safe. -/
  | notSettled
  deriving DecidableEq, Repr

/-- After power-up nothing drives `uid_i` and nothing has been asked or seen. The spec gives CORE no reset
(70_reset_and_hazards.md R260); the values are the model's (DESIGN CHOICE: notes/assumptions/4.md). -/
def State.reset : State where
  pending := []
  uidI := none
  stability := .held 0
  observed := []
  instant := 0

end Sys2Proof.Machine
end

