-- ==== Sys2Proof/Machine/Operands.lean ====
section
/-! DEFINITION. Operand assembly: the hex digits of an identifier (30_encoding.md R61, R62), and the byte view of the
output (20_memory.md R45). -/

namespace Sys2Proof.Machine

/-- `nibble(u, k) = u[31-4k : 28-4k]`: hex digit k, digit 0 the most significant (40_hex_digits.md R80). -/
def nibble (u : CardId) (k : Fin 8) : Nibble :=
  u.extractLsb' (28 - 4 * k.val) 4

/-- `N[0..8)`: the eight outputs of the slicer, always all eight (40_hex_digits.md R80). -/
def nibbles (u : CardId) : Vector Nibble 8 :=
  #v[nibble u 0, nibble u 1, nibble u 2, nibble u 3, nibble u 4, nibble u 5, nibble u 6, nibble u 7]

/-- Byte g of the output, `stream_o[63-8g : 56-8g]`, for g in 0..8 (20_memory.md R45). -/
def streamByte (w : Em4100Stream) (g : Fin 8) : BitVec 8 :=
  w.extractLsb' (56 - 8 * g.val) 8

end Sys2Proof.Machine
end

