-- ==== Sys2Proof/Machine/Flags.lean ====
section
/-! DEFINITION. The parity computations. CORE has no flags (10_state.md R24): these bits are bits of the stream, and they
are all the one function `par`, read as 00_scope.md R11 and 90_conflicts.md C1 say. -/

namespace Sys2Proof.Machine

/-- `par(b_0, ..., b_{k-1}) = b_0 xor ... xor b_{k-1}` (00_scope.md R11). -/
def par (bs : List Bool) : Bool :=
  bs.foldr xor false

/-- The bits of a vector in position order, position 0 first (00_scope.md R9, R12). -/
def positions {n : Nat} (v : BitVec n) : List Bool :=
  (List.range n).map v.getMsbD

/-- `rp(n)`: the row parity of a nibble (41_nibble_parity.md R100). -/
def rowParityOf (n : Nibble) : Bool :=
  par (positions n)

/-- `CP[c] = par(D[c], D[5 + c], ..., D[45 + c])`: the ten bits of column c, rows 0 and 1 among them
(43_column_parity.md R140). -/
def columnParityBit (d : DataField) (c : Nat) : Bool :=
  par ((List.range 10).map fun r => d.getMsbD (5 * r + c))

/-- `CP`: four bits, column 0 first; the row parity column is not covered (43_column_parity.md R140). -/
def columnParityOf (d : DataField) : ColumnParity :=
  BitVec.ofBool (columnParityBit d 0) ++ BitVec.ofBool (columnParityBit d 1)
    ++ BitVec.ofBool (columnParityBit d 2) ++ BitVec.ofBool (columnParityBit d 3)

end Sys2Proof.Machine
end

