-- ==== Sys2Proof/Machine/Stages.lean ====
section
/-! DEFINITION. The stages of CORE as functions (10_state.md R28): the nibble-parity expander, the data field assembler,
the 64-bit output assembler, and the whole of CORE. -/

namespace Sys2Proof.Machine

/-- `pn(n) = bits4(n) ++ [rp(n)]` (41_nibble_parity.md R101). -/
def expand (n : Nibble) : ParityNibble :=
  n ++ BitVec.ofBool (rowParityOf n)

/-- `DF(u)`: two zero rows that nothing can configure, then the eight expanded digits in order (42_data_field.md R120,
R121, R123). -/
def dataFieldOf (u : CardId) : DataField :=
  expand 0 ++ expand 0
    ++ expand (nibble u 0) ++ expand (nibble u 1) ++ expand (nibble u 2) ++ expand (nibble u 3)
    ++ expand (nibble u 4) ++ expand (nibble u 5) ++ expand (nibble u 6) ++ expand (nibble u 7)

/-- `S(D, C) = rep(9, 1) ++ D ++ C ++ [0]` (44_stream_encode.md R160). -/
def assemble (d : DataField) (c : ColumnParity) : Em4100Stream :=
  0b111111111#9 ++ d ++ c ++ 0#1

/-- `encode(u)`, the total function that CORE is (44_stream_encode.md R161, 10_state.md R30). -/
def encodeStream (u : CardId) : Em4100Stream :=
  assemble (dataFieldOf u) (columnParityOf (dataFieldOf u))

end Sys2Proof.Machine
end

