-- ==== Sys2Proof/Machine/HostText.lean ====
section
/-! DEFINITION. The host's text functions: the validator, the hex text, the display form, and the text form of the
expander (45_host_side.md). All of it is outside CORE. -/

namespace Sys2Proof.Machine

/-- A decimal digit character: U+0030 to U+0039 and no other (45_host_side.md R191, 92 D11). -/
def isDecimalDigit (c : Char) : Bool :=
  48 ≤ c.toNat && c.toNat ≤ 57

/-- The value of a digit string as a base-10 natural number, unbounded (45_host_side.md R191). -/
def decimalValue (t : Text) : Nat :=
  t.foldl (fun v c => 10 * v + (c.toNat - 48)) 0

/-- `validate(s)`: the identifier, or `none` for InvalidUid, the one error kind (45_host_side.md R191, R196). The value is
checked, not the length: leading zeros are accepted (92 D12, UNVERIFIED, unsafe: notes/assumptions/11.md). -/
def validate (t : Text) : Option CardId :=
  if t.isEmpty then none
  else if !t.all isDecimalDigit then none
  else if 4294967295 < decimalValue t then none
  else some (BitVec.ofNat 32 (decimalValue t))

/-- The characters `"0123456789abcdef"`, ASCII (45_host_side.md R193, 92 D13). -/
def hexDigits : Text :=
  ['0', '1', '2', '3', '4', '5', '6', '7', '8', '9', 'a', 'b', 'c', 'd', 'e', 'f']

/-- `"0123456789abcdef"[n]`. -/
def hexDigitChar (n : Nibble) : Char :=
  hexDigits.getD n.toNat '0'

/-- `hexText(u)`: the eight digits, most significant first, lower case (45_host_side.md R193). -/
def hexTextOf (u : CardId) : Text :=
  (nibbles u).toList.map hexDigitChar

/-- The value of a character of the expander's text form: `'0'..'9'` to 0 to 9, `'a'..'f'` to 10 to 15, no other
character (45_host_side.md R199, 92 D22). -/
def hexCharValue (c : Char) : Option Nibble :=
  if 48 ≤ c.toNat && c.toNat ≤ 57 then some (BitVec.ofNat 4 (c.toNat - 48))
  else if 97 ≤ c.toNat && c.toNat ≤ 102 then some (BitVec.ofNat 4 (c.toNat - 87))
  else none

/-- A bit as `'0'` or `'1'`. -/
def bitChar (b : Bool) : Char :=
  if b then '1' else '0'

/-- A bit sequence as text, position 0 first (00_scope.md R9). -/
def bitText {n : Nat} (v : BitVec n) : Text :=
  (positions v).map bitChar

/-- `fmt(S)`: eight groups of eight characters, group g the byte g of the output, joined by single spaces
(45_host_side.md R194, 20_memory.md R45). -/
def formatStream (w : Em4100Stream) : Text :=
  [' '].intercalate ((List.finRange 8).map fun g => bitText (streamByte w g))

end Sys2Proof.Machine
end

