-- ==== Sys2Proof/Machine/Ops.lean ====
section
/-! DEFINITION. The named operations over the state: the host's record, the two ports, and the queue of host actions. Taking
an exception is not among them: no trap mechanism exists (60_exceptions.md R234), and InvalidUid is returned like any
other result. -/

namespace Sys2Proof.Machine

/-- A later instant: what an unsettled `stream_o` shows may be another value (DEDUCED: notes/assumptions/5.md). -/
def State.tick (s : State) : State :=
  { s with instant := s.instant + 1 }

/-- The host gets a result back. Nothing reads the record, so nothing goes from one transaction to the next
(10_state.md R27). -/
def State.observe (s : State) (o : Observation) : State :=
  { s with observed := o :: s.observed }

/-- The host puts a level on `uid_i`. A level that differs from the one there starts the settling time again
(70_reset_and_hazards.md R263); the same level changes nothing (DEDUCED: notes/assumptions/16.md). -/
def State.drive (s : State) (level : Option CardId) : State :=
  if s.uidI = level then s else { s with uidI := level, stability := .held 0 }

/-- `uid_i` stays stable for `t` more time units. -/
def Stability.hold (t : Nat) : Stability → Stability
  | .held t₀ => .held (t₀ + t)
  | .settled => .settled

/-- The host keeps `uid_i` stable for `t` more time units. -/
def State.hold (s : State) (t : Nat) : State :=
  { s with stability := s.stability.hold t }

/-- The host keeps `uid_i` stable for at least T_PD (45_host_side.md R197 "wait T_PD"). -/
def State.settle (s : State) : State :=
  { s with stability := .settled }

/-- Stable for at least T_PD (70_reset_and_hazards.md R264). -/
def Stability.isSettled : Stability → Bool
  | .held t => Config.tPD ≤ t
  | .settled => true

/-- The level on `stream_o`: a function of the level on `uid_i` alone once that has settled (10_state.md R21, R29), and any
value before that or while a bit is undriven (70_reset_and_hazards.md R260, R264). -/
def State.streamO (s : State) : Em4100Stream :=
  match s.uidI with
  | some u => if s.stability.isSettled then encodeStream u else Config.unsettledStream s.instant
  | none => Config.unsettledStream s.instant

/-- The host reads `stream_o` and gets `view` of it back. It has no meaning when the host broke its duty
(45_host_side.md R198). -/
def State.sample (s : State) (view : Em4100Stream → Observation) : Host.Outcome State Fault Refusal :=
  match s.uidI with
  | none => .refused .inputUndriven
  | some _ => if s.stability.isSettled then .next (s.observe (view s.streamO)) else .refused .notSettled

/-- One transaction of CORE: `drive uid_i <- u; wait T_PD; S <- stream_o` (10_state.md R30, 45_host_side.md R197).
The level stays on the port afterwards (DESIGN CHOICE: notes/assumptions/20.md). -/
def State.transact (s : State) (u : CardId) (view : Em4100Stream → Observation) : Host.Outcome State Fault Refusal :=
  ((s.drive (some u)).settle).sample view

/-- The host's one error: InvalidUid comes back as a value, with nothing beside it, and nothing else happens
(45_host_side.md R196, 60_exceptions.md R234). -/
def State.returnInvalidUid (s : State) : State :=
  s.observe .invalidUid

/-- The host's next action and the state without it, or `none` when it asks for nothing. -/
def State.nextAction (s : State) : Option (HostAction × State) :=
  match s.pending with
  | [] => none
  | a :: rest => some (a, { s with pending := rest })

/-- The host asks for an action before the others it has asked for. -/
def State.enqueueFirst (s : State) (a : HostAction) : State :=
  { s with pending := a :: s.pending }

end Sys2Proof.Machine
end

