-- ==== Sys2Proof/Machine/Encoder.lean ====
section
/-! DEFINITION. ENCODE, the one operation of CORE. -/

namespace Sys2Proof.Machine

/-- ENCODE (44_stream_encode.md R161): one transaction, for any 32-bit value. -/
def execEncode (u : CardId) (s : State) : Host.Outcome State Fault Refusal :=
  s.transact u .stream

end Sys2Proof.Machine
end

