-- ==== Sys2Proof/Machine/HostSide.lean ====
section
/-! DEFINITION. The host's operations (45_host_side.md), outside CORE. Only CONVERT uses CORE, and only once its input is
valid. -/

namespace Sys2Proof.Machine

/-- VALIDATE (45_host_side.md R191). -/
def execValidate (t : Text) (s : State) : Host.Outcome State Fault Refusal :=
  match validate t with
  | some u => .next (s.observe (.cardId u))
  | none => .next s.returnInvalidUid

/-- HEX_TEXT (45_host_side.md R193). -/
def execHexText (u : CardId) (s : State) : Host.Outcome State Fault Refusal :=
  .next (s.observe (.hexText (hexTextOf u)))

/-- FORMAT (45_host_side.md R194). -/
def execFormat (w : Em4100Stream) (s : State) : Host.Outcome State Fault Refusal :=
  .next (s.observe (.display (formatStream w)))

/-- CONVERT (45_host_side.md R197): InvalidUid and nothing else, or one transaction of CORE and the response record, which
echoes the request string (R195). -/
def execConvert (t : Text) (s : State) : Host.Outcome State Fault Refusal :=
  match validate t with
  | none => .next s.returnInvalidUid
  | some u => s.transact u fun w => .response ⟨t, hexTextOf u, formatStream w⟩

end Sys2Proof.Machine
end

