-- ==== Sys2Proof/Machine/SubBlocks.lean ====
section
/-! DEFINITION. The sub-blocks of CORE, each tested alone (30_encoding.md R60): its result comes back, and neither port of
CORE is touched (DESIGN CHOICE: notes/assumptions/3.md). -/

namespace Sys2Proof.Machine

/-- HEX_SLICE (40_hex_digits.md R80). -/
def execHexSlice (u : CardId) (s : State) : Host.Outcome State Fault Refusal :=
  .next (s.observe (.nibbles (nibbles u)))

/-- ROW_PARITY (41_nibble_parity.md R100). -/
def execRowParity (n : Nibble) (s : State) : Host.Outcome State Fault Refusal :=
  .next (s.observe (.rowParity (rowParityOf n)))

/-- NIBBLE_EXPAND: on a 4-bit value (41_nibble_parity.md R101), and in the text form, which refuses any character outside
its domain (45_host_side.md R199). -/
def execNibbleExpand (x : ExpandOperand) (s : State) : Host.Outcome State Fault Refusal :=
  match x with
  | .nibble n => .next (s.observe (.parityNibble (expand n)))
  | .hexChar c =>
    match hexCharValue c with
    | some n => .next (s.observe (.parityText (bitText (expand n))))
    | none => .refused (.notHexDigit c)

/-- DATA_FIELD (42_data_field.md R120). -/
def execDataField (u : CardId) (s : State) : Host.Outcome State Fault Refusal :=
  .next (s.observe (.dataField (dataFieldOf u)))

/-- COLUMN_PARITY (43_column_parity.md R140). -/
def execColumnParity (d : DataField) (s : State) : Host.Outcome State Fault Refusal :=
  .next (s.observe (.columnParity (columnParityOf d)))

/-- STREAM_ASSEMBLE (44_stream_encode.md R160). -/
def execStreamAssemble (d : DataField) (c : ColumnParity) (s : State) : Host.Outcome State Fault Refusal :=
  .next (s.observe (.assembled (assemble d c)))

end Sys2Proof.Machine
end

