-- ==== Sys2Proof/Machine/Dispatch.lean ====
section
/-! DEFINITION. One arm for each row of spec/opcode_table.json. -/

namespace Sys2Proof.Machine

def exec (i : Instr) (s : State) : Host.Outcome State Fault Refusal :=
  match i with
  | .encode u => Sys2Proof.Machine.execEncode u s
  | .hexSlice u => Sys2Proof.Machine.execHexSlice u s
  | .rowParity n => Sys2Proof.Machine.execRowParity n s
  | .nibbleExpand x => Sys2Proof.Machine.execNibbleExpand x s
  | .dataField u => Sys2Proof.Machine.execDataField u s
  | .columnParity d => Sys2Proof.Machine.execColumnParity d s
  | .streamAssemble d c => Sys2Proof.Machine.execStreamAssemble d c s
  | .validate t => Sys2Proof.Machine.execValidate t s
  | .hexText u => Sys2Proof.Machine.execHexText u s
  | .format w => Sys2Proof.Machine.execFormat w s
  | .convert t => Sys2Proof.Machine.execConvert t s

end Sys2Proof.Machine
end

