-- ==== Sys2Proof/Machine/HostActions.lean ====
section
/-! DEFINITION. What each host action does. A launch is a transaction (10_state.md R30); the others are what a host may do
to the ports between transactions (45_host_side.md R198; DESIGN CHOICE: notes/assumptions/22.md). -/

namespace Sys2Proof.Machine

/-- Run one host action. -/
def perform (a : HostAction) (s : State) : Host.Outcome State Fault Refusal :=
  match a with
  | .launch l =>
    match decode l with
    | .ok i => exec i s
    | .error e => .refused (.undecodable e)
  | .drive level => .next (s.drive level)
  | .hold t => .next (s.hold t)
  | .settle => .next s.settle
  | .sample => s.sample .stream

end Sys2Proof.Machine
end

