-- ==== Sys2Proof/Machine/Step.lean ====
section
/-! DEFINITION. One step: the host's next action. -/

namespace Sys2Proof.Machine

/-- Time goes on, and the host's next action is run. With nothing asked for, the input stays as it is
(DESIGN CHOICE: notes/assumptions/17.md). -/
def step (s : State) : Host.Outcome State Fault Refusal :=
  match s.nextAction with
  | none => .next s.tick
  | some (a, s') => perform a s'.tick

/-- `s` with a word on CORE's port as the host's next transaction. -/
def State.withFetchWord (s : State) (nbits w : Nat) : State :=
  s.enqueueFirst (.launch (portLaunch nbits w))

end Sys2Proof.Machine
end

