-- ==== Sys2Proof/Safety.lean ====
section
/-! DEFINITION. What counts as a well-behaved run, and the terms claims are stated in. -/

namespace Sys2Proof.Machine

/-- `i` runs in `s` to a next state and the host gets exactly `o` back. -/
def Answers (i : Instr) (s : State) (o : Observation) : Prop :=
  ∃ t, exec i s = .next t ∧ t.observed = o :: s.observed

/-- `k` steps, stopping at the first that has no next state. -/
def runSteps : Nat → State → Host.Outcome State Fault Refusal
  | 0, s => .next s
  | k + 1, s =>
    match step s with
    | .next t => runSteps k t
    | .fault f => .fault f
    | .refused r => .refused r

/-- The number of `1` bits of a bit sequence (00_scope.md R13). -/
def popcount {n : Nat} (v : BitVec n) : Nat :=
  (positions v).count true

/-- The laws that single out the image of `encode`: rules R164, R165, R166 and R167, and positions 9 to 18 zero
(44_stream_encode.md R169). -/
structure IsEm4100 (w : Em4100Stream) : Prop where
  /-- Nine `1` bits at positions 0 to 8 (R164). -/
  header : ∀ p : Fin 9, w.getMsbD p = true
  /-- `S[63] = 0` (R165). -/
  stop : w.getMsbD 63 = false
  /-- Each row's fifth bit is the exclusive-or of its first four (R166). -/
  rowParity : ∀ r : Fin 10, w.getMsbD (9 + 5 * r + 4)
    = (w.getMsbD (9 + 5 * r) ^^ w.getMsbD (9 + 5 * r + 1) ^^ w.getMsbD (9 + 5 * r + 2) ^^ w.getMsbD (9 + 5 * r + 3))
  /-- Each column parity bit is `par` of its column's ten bits (R167). -/
  columnParity : ∀ c : Fin 4, w.getMsbD (59 + c) = par ((List.range 10).map fun r => w.getMsbD (9 + 5 * r + c))
  /-- The two leading rows are zero (R123, R170). -/
  leadingRows : ∀ p : Fin 10, w.getMsbD (9 + p) = false

/-- Reading the identifier back from the data rows: digit k is `S[19+5k .. 23+5k)` (44_stream_encode.md R168). A test
property, not a function of CORE (30_encoding.md R69). -/
def readBack (w : Em4100Stream) : CardId :=
  w.extractLsb' 41 4 ++ w.extractLsb' 36 4 ++ w.extractLsb' 31 4 ++ w.extractLsb' 26 4
    ++ w.extractLsb' 21 4 ++ w.extractLsb' 16 4 ++ w.extractLsb' 11 4 ++ w.extractLsb' 6 4

/-- What every value the host gets back satisfies, whatever the run was: the stream laws for a value of CORE's port, even
parity of every row, and the shapes of the host's texts. A result of COLUMN_PARITY or STREAM_ASSEMBLE alone obeys no such
law, since any operand may be put on those sub-blocks. -/
def Observation.Lawful : Observation → Prop
  | .stream w => IsEm4100 w
  | .nibbles _ => True
  | .rowParity _ => True
  | .parityNibble g => popcount g % 2 = 0
  | .parityText t => t.length = 5 ∧ t.count '1' % 2 = 0 ∧ ∀ c ∈ t, c = '0' ∨ c = '1'
  | .dataField d => d.extractLsb' 40 10 = 0 ∧ ∀ r : Fin 10, popcount (d.extractLsb' (5 * r) 5) % 2 = 0
  | .columnParity _ => True
  | .assembled w => (∀ p : Fin 9, w.getMsbD p = true) ∧ w.getMsbD 63 = false
  | .cardId _ => True
  | .hexText t => t.length = 8 ∧ t.all isLowerHexChar = true
  | .display t => t.length = 71
  | .response r => r.hexValue.length = 8 ∧ r.hexValue.all isLowerHexChar = true ∧ r.em4100.length = 71
      ∧ r.inputUid ≠ [] ∧ r.inputUid.all isDecimalDigit = true
  | .invalidUid => True

/-- The invariant of a run: everything the host got back is lawful. -/
def State.Inv (s : State) : Prop :=
  ∀ o ∈ s.observed, o.Lawful

/-- The host's next action keeps its duties: it launches something an input can carry, and samples only a driven and settled
port (45_host_side.md R198). -/
def State.DutyMet (s : State) : Prop :=
  match s.pending with
  | [] => True
  | .launch l :: _ => ∃ i, decode l = .ok i
  | .drive _ :: _ => True
  | .hold _ :: _ => True
  | .settle :: _ => True
  | .sample :: _ => s.uidI ≠ none ∧ s.stability.isSettled = true

end Sys2Proof.Machine
end

