-- ==== Sys2Proof/Certificates/Slice0/Obligations.lean ====
section
/-! DEFINITION. The statements for the provers, in the order of OBLIGATIONS.json. `Answers i s o` says that `i` runs to a
next state and the host gets `o` back. Results of the sub-blocks and of the host's functions are stated as an equality
with the whole next state, so each carries its frame: everything but the host's record is as before (for the sub-blocks the
model's choice, log 3). "Log n" is notes/assumptions/n.md. -/

open Sys2Proof Sys2Proof.Machine

/-! ### Encoding -/

/-- Decoding an encoded well-formed instruction gives it back, with every operand at every value. Which input the operand
is put on is the model's own (log 15). -/
def Obligations.DecodeOfEncodeIsTheInstruction : Prop :=
  ∀ i : Instr, i.wellFormed = true → decode (encode i) = .ok i

/-- Every launch that decodes is the one launch of a well-formed instruction: no bit of a payload is dropped. The launch
format is the model's own (log 15). -/
def Obligations.EncodeOfDecodeIsTheLaunch : Prop :=
  ∀ (l : Launch) (i : Instr), decode l = .ok i → i.wellFormed = true ∧ encode i = l

/-- 30_encoding.md R65: the opcode map of the port. -/
def Obligations.EveryPortWordIsEncode : Prop :=
  ∀ w : Nat, w < 2 ^ 32 → decodeTableWord 32 w = some (.encode (BitVec.ofNat 32 w))

/-- 30_encoding.md R66, R67 and 93 U2, the model's own refusals (logs 8, 15 and 23): a word of another width stands on no
port, and a launch with a wire at no defined level has no run. -/
def Obligations.OtherWidthsAndUndefinedLevelsAreRefused : Prop :=
  (∀ nbits w : Nat, nbits ≠ 32 → decodeTableWord nbits w = none) ∧
  (∀ (b : Block) (s : State) (rest : List HostAction), s.pending = .launch ⟨b, .undefinedLevel⟩ :: rest →
    step s = .refused (.undecodable .undefinedLevel))

/-- Words written out from the spec's formats: PORT32 (R61), NIB4, DF50 (R63), the 54 bits of STREAM_ASSEMBLE
(opcode_table.json), STREAM64 (R64) and the text forms (log 9), each on its own input (log 15). -/
def Obligations.WordsFromTheSpecDecode : Prop :=
  decode ⟨.core, .bits 32 0b00010010001101000101011001111000⟩ = .ok (.encode 0x12345678) ∧
  decode ⟨.rowParityGenerator, .bits 4 0b0111⟩ = .ok (.rowParity 7) ∧
  decode ⟨.columnParityGenerator, .bits 50 (2 ^ 49)⟩ = .ok (.columnParity 0x2000000000000) ∧
  decode ⟨.streamAssembler, .bits 54 0b100011010⟩ = .ok (.streamAssemble 0b10001 0b1010) ∧
  decode ⟨.formatter, .bits 64 0xFF80000000000062⟩ = .ok (.format 0xFF80000000000062) ∧
  decode ⟨.nibbleExpander, .text ['f']⟩ = .ok (.nibbleExpand (.hexChar 'f')) ∧
  decode ⟨.nibbleExpander, .text ['F']⟩ = .error (.notHexDigit 'F')

/-! ### The step -/

/-- When the next launch decodes to `i`, a step takes it off the queue (log 1), lets time go on (log 5), and runs `i`. -/
def Obligations.StepRunsTheDecodedInstruction : Prop :=
  ∀ (s : State) (l : Launch) (rest : List HostAction) (i : Instr),
    s.pending = .launch l :: rest → decode l = .ok i →
      step s = exec i { s with pending := rest, instant := s.instant + 1 }

/-- 30_encoding.md R66: whatever 32-bit word stands on the port, the very next step is its ENCODE and it completes. That the
level stays on `uid_i`, settled, is the model's choice (log 20), and so are the queue (log 1) and the instants (log 5). -/
def Obligations.NoInputWordIsRefused : Prop :=
  ∀ (s : State) (w : Nat), w < 2 ^ 32 →
    step (s.withFetchWord 32 w) = .next
      { s with uidI := some (BitVec.ofNat 32 w), stability := .settled, instant := s.instant + 1,
               observed := .stream (encodeStream (BitVec.ofNat 32 w)) :: s.observed }

/-- 60_exceptions.md R230 and 10_state.md R30: CORE and its sub-blocks raise nothing, for any operand, and no step of the
machine is a fault. -/
def Obligations.CoreNeverFaultsOrRefuses : Prop :=
  (∀ (u : CardId) (n : Nibble) (d : DataField) (c : ColumnParity) (s : State),
    ∀ i ∈ [Instr.encode u, .hexSlice u, .rowParity n, .nibbleExpand (.nibble n), .dataField u, .columnParity d,
      .streamAssemble d c], ∃ t, exec i s = .next t) ∧
  (∀ (s : State) (f : Fault), step s ≠ .fault f)

/-- Every well-formed instruction completes in every state, gives one observation back, and leaves the host's queue and the
clock of instants, which are the model's (logs 1 and 5), alone. -/
def Obligations.EveryInstructionCompletes : Prop :=
  ∀ (i : Instr) (s : State), i.wellFormed = true →
    ∃ t o, exec i s = .next t ∧ t.observed = o :: s.observed ∧ t.pending = s.pending ∧ t.instant = s.instant

/-- Only ENCODE and CONVERT use CORE's ports: whatever else completes leaves the level on `uid_i`, its stability and the
level on `stream_o` as they were. For the sub-blocks this is the model's choice (log 3). -/
def Obligations.OnlyEncodeAndConvertTouchThePorts : Prop :=
  ∀ (i : Instr) (s t : State), exec i s = .next t → (∀ u, i ≠ .encode u) → (∀ x, i ≠ .convert x) →
    t.uidI = s.uidI ∧ t.stability = s.stability ∧ t.streamO = s.streamO

/-- A step is refused exactly when the host's next action breaks its duty: an early sample (45_host_side.md R198, 93 U1;
log 7), an undriven input (93 U2; log 8), or a launch that stands for no instruction, which has another width than its input
(30_encoding.md R67; log 15), a character outside the expander's domain (45_host_side.md R199, 93 U6; log 9), or a wire of
some other input at no defined level (log 23). -/
def Obligations.StepIsRefusedIffTheHostBreaksItsDuty : Prop :=
  ∀ s : State, (∃ r, step s = .refused r) ↔ ¬ s.DutyMet

/-! ### Parity -/

/-- 00_scope.md R11. -/
def Obligations.ParIsTheParityOfTheCount : Prop :=
  ∀ bs : List Bool,
    (par bs = true ↔ bs.count true % 2 = 1) ∧ (bs ++ [par bs]).count true % 2 = 0

/-- 41_nibble_parity.md R100. That no port of CORE is touched is the model's choice (log 3). -/
def Obligations.RowParityResult : Prop :=
  ∀ (n : Nibble) (s : State), ∃ p : Bool,
    exec (.rowParity n) s = .next { s with observed := .rowParity p :: s.observed } ∧
    p = (n.getLsbD 3 ^^ n.getLsbD 2 ^^ n.getLsbD 1 ^^ n.getLsbD 0) ∧
    (p = true ↔ popcount n % 2 = 1) ∧
    (p = true ↔ n.toNat ∈ [1, 2, 4, 7, 8, 11, 13, 14])

/-- 41_nibble_parity.md R101: the function, and its complete table. That no port of CORE is touched is the model's choice (log 3). -/
def Obligations.NibbleExpandResult : Prop :=
  ∀ (n : Nibble) (s : State), ∃ g : ParityNibble,
    exec (.nibbleExpand (.nibble n)) s = .next { s with observed := .parityNibble g :: s.observed } ∧
    (∀ j : Fin 4, g.getMsbD j = n.getMsbD j) ∧
    g.getMsbD 4 = (n.getLsbD 3 ^^ n.getLsbD 2 ^^ n.getLsbD 1 ^^ n.getLsbD 0) ∧
    some g.toNat = [0x00, 0x03, 0x05, 0x06, 0x09, 0x0A, 0x0C, 0x0F,
      0x11, 0x12, 0x14, 0x17, 0x18, 0x1B, 0x1D, 0x1E][n.toNat]?

/-- 41_nibble_parity.md R102 and R103: a ParityNibble gives its nibble back, and exactly the sixteen patterns with an even
number of `1` bits are ParityNibbles; no other pattern occurs as a row of the data field. -/
def Obligations.ParityNibblesAreTheEvenPatterns : Prop :=
  ∀ s : State,
    (∀ (n m : Nibble) (g : ParityNibble), Answers (.nibbleExpand (.nibble n)) s (.parityNibble g) →
      n = g.extractLsb' 1 4 ∧ (Answers (.nibbleExpand (.nibble m)) s (.parityNibble g) → n = m)) ∧
    (∀ g : ParityNibble,
      (∃ n, Answers (.nibbleExpand (.nibble n)) s (.parityNibble g)) ↔ popcount g % 2 = 0) ∧
    (∀ (u : CardId) (d : DataField) (r : Fin 10), Answers (.dataField u) s (.dataField d) →
      popcount (d.extractLsb' (45 - 5 * r) 5) % 2 = 0) ∧
    (Finset.univ.filter fun g : Fin 32 => popcount (BitVec.ofFin g : ParityNibble) % 2 = 0).card = 16

/-- 45_host_side.md R199: the text form of the expander, as an operand form of NIBBLE_EXPAND (log 9). That no port of CORE is
touched is the model's choice (log 3). -/
def Obligations.ExpandTextResult : Prop :=
  (∀ (c : Char) (v : Nat) (s : State),
    (48 ≤ c.toNat ∧ c.toNat ≤ 57 ∧ v = c.toNat - 48) ∨ (97 ≤ c.toNat ∧ c.toNat ≤ 102 ∧ v = c.toNat - 97 + 10) →
      exec (.nibbleExpand (.hexChar c)) s = .next { s with
        observed := .parityText [bitChar (v.testBit 3), bitChar (v.testBit 2), bitChar (v.testBit 1), bitChar (v.testBit 0),
          bitChar (v.testBit 3 ^^ v.testBit 2 ^^ v.testBit 1 ^^ v.testBit 0)] :: s.observed }) ∧
  (∀ (c : Char) (s : State), ¬ (48 ≤ c.toNat ∧ c.toNat ≤ 57) → ¬ (97 ≤ c.toNat ∧ c.toNat ≤ 102) →
    exec (.nibbleExpand (.hexChar c)) s = .refused (.notHexDigit c) ∧
    decode ⟨.nibbleExpander, .text [c]⟩ = .error (.notHexDigit c)) ∧
  (∀ (u : CardId) (c : Char), c ∈ hexTextOf u →
    (48 ≤ c.toNat ∧ c.toNat ≤ 57) ∨ (97 ≤ c.toNat ∧ c.toNat ≤ 102)) ∧
  (∀ (n : Nibble) (s : State), ∃ t, exec (.nibbleExpand (.nibble n)) s = .next t)

/-! ### The sub-blocks -/

/-- 40_hex_digits.md R80: digit k is bits 31-4k to 28-4k, which is `(u >> (28 - 4k)) and 0xF`. That no port of CORE is touched,
`uid_i` among them, is the model's choice (log 3). -/
def Obligations.HexSliceResult : Prop :=
  ∀ (u : CardId) (s : State), ∃ ns : Vector Nibble 8,
    exec (.hexSlice u) s = .next { s with observed := .nibbles ns :: s.observed } ∧
    ∀ k : Fin 8, (∀ j : Fin 4, ns[k].getLsbD j = u.getLsbD (28 - 4 * k + j)) ∧
      ns[k].toNat = ((u >>> (28 - 4 * k.val)) &&& 0xF#32).toNat

/-- 40_hex_digits.md R81: the slicer is lossless. -/
def Obligations.HexSliceIsLossless : Prop :=
  ∀ (u : CardId) (s : State), ∃ ns : Vector Nibble 8, Answers (.hexSlice u) s (.nibbles ns) ∧
    u.toNat = ns[0].toNat * 16 ^ 7 + ns[1].toNat * 16 ^ 6 + ns[2].toNat * 16 ^ 5 + ns[3].toNat * 16 ^ 4
      + ns[4].toNat * 16 ^ 3 + ns[5].toNat * 16 ^ 2 + ns[6].toNat * 16 + ns[7].toNat ∧
    u = ns[0] ++ ns[1] ++ ns[2] ++ ns[3] ++ ns[4] ++ ns[5] ++ ns[6] ++ ns[7]

/-- 42_data_field.md R120, R121, R122: the data field by vector slices, by rows, and bit by bit. That no port of CORE is
touched is the model's choice (log 3). -/
def Obligations.DataFieldResult : Prop :=
  ∀ (u : CardId) (s : State), ∃ d : DataField,
    exec (.dataField u) s = .next { s with observed := .dataField d :: s.observed } ∧
    d.extractLsb' 40 10 = 0 ∧
    (∀ k : Fin 8, d.extractLsb' (35 - 5 * k) 5 = expand (nibble u k)) ∧
    (∀ r : Fin 10, ∀ j : Fin 4,
      d.getMsbD (5 * r + j) = if r.val < 2 then false else u.getLsbD (31 - 4 * (r - 2) - j)) ∧
    (∀ r : Fin 10, d.getMsbD (5 * r + 4) = if r.val < 2 then false else
      (u.getLsbD (31 - 4 * (r - 2)) ^^ u.getLsbD (30 - 4 * (r - 2)) ^^ u.getLsbD (29 - 4 * (r - 2))
        ^^ u.getLsbD (28 - 4 * (r - 2))))

/-- 43_column_parity.md R140 and R142, for any 50-bit operand. That no port of CORE is touched is the model's choice (log 3). -/
def Obligations.ColumnParityResult : Prop :=
  ∀ (d : DataField) (s : State), ∃ cp : ColumnParity,
    exec (.columnParity d) s = .next { s with observed := .columnParity cp :: s.observed } ∧
    ∀ c : Fin 4,
      (cp.getMsbD c = true ↔ ((List.range 10).map fun r => d.getMsbD (5 * r + c)).count true % 2 = 1) ∧
      (cp.getMsbD c :: (List.range 10).map fun r => d.getMsbD (5 * r + c)).count true % 2 = 0

/-- 43_column_parity.md R141: on the data field of an identifier, the column parity is the exclusive-or of its digits. -/
def Obligations.ColumnParityIsTheXorOfTheDigits : Prop :=
  ∀ (u : CardId) (s : State), ∃ (d : DataField) (cp : ColumnParity),
    Answers (.dataField u) s (.dataField d) ∧ Answers (.columnParity d) s (.columnParity cp) ∧
    cp = nibble u 0 ^^^ nibble u 1 ^^^ nibble u 2 ^^^ nibble u 3 ^^^ nibble u 4 ^^^ nibble u 5 ^^^ nibble u 6
      ^^^ nibble u 7 ∧
    ∀ c : Fin 4, cp.getMsbD c =
      par [u.getLsbD (31 - c), u.getLsbD (27 - c), u.getLsbD (23 - c), u.getLsbD (19 - c),
           u.getLsbD (15 - c), u.getLsbD (11 - c), u.getLsbD (7 - c), u.getLsbD (3 - c)]

/-- 44_stream_encode.md R160, for any operands. That the result comes back on a bench and CORE's `stream_o`, which the opcode
table names as its port, is left alone is the model's choice (log 3). -/
def Obligations.StreamAssembleResult : Prop :=
  ∀ (d : DataField) (c : ColumnParity) (s : State), ∃ w : Em4100Stream,
    exec (.streamAssemble d c) s = .next { s with observed := .assembled w :: s.observed } ∧
    w.extractLsb' 55 9 = 0x1FF ∧ w.extractLsb' 5 50 = d ∧ w.extractLsb' 1 4 = c ∧ w.extractLsb' 0 1 = 0

/-! ### ENCODE and the laws of the stream -/

/-- 44_stream_encode.md R161: the next state of ENCODE, and the stream as its four fields. That the level stays on `uid_i`,
settled, is the model's choice (log 20). -/
def Obligations.EncodeResult : Prop :=
  ∀ (u : CardId) (s : State), ∃ w : Em4100Stream,
    exec (.encode u) s = .next
      { s with uidI := some u, stability := .settled, observed := .stream w :: s.observed } ∧
    w.extractLsb' 55 9 = 0x1FF ∧
    w.extractLsb' 5 50 = 0#10 ++ expand (nibble u 0) ++ expand (nibble u 1) ++ expand (nibble u 2)
      ++ expand (nibble u 3) ++ expand (nibble u 4) ++ expand (nibble u 5) ++ expand (nibble u 6)
      ++ expand (nibble u 7) ∧
    (∀ c : Fin 4, w.getMsbD (59 + c) = par ((List.range 10).map fun r => w.getMsbD (9 + (5 * r + c)))) ∧
    w.extractLsb' 0 1 = 0

/-- 30_encoding.md R64: STREAM64 bit by bit. -/
def Obligations.StreamLayoutBitByBit : Prop :=
  ∀ (u : CardId) (s : State), ∃ w : Em4100Stream, Answers (.encode u) s (.stream w) ∧
    (∀ p : Fin 9, w.getLsbD (63 - p) = true) ∧
    (∀ p : Fin 10, w.getLsbD (54 - p) = false) ∧
    (∀ k : Fin 8, ∀ j : Fin 4, w.getLsbD (44 - 5 * k - j) = u.getLsbD (31 - 4 * k - j)) ∧
    (∀ k : Fin 8, w.getLsbD (40 - 5 * k) =
      (u.getLsbD (31 - 4 * k) ^^ u.getLsbD (30 - 4 * k) ^^ u.getLsbD (29 - 4 * k) ^^ u.getLsbD (28 - 4 * k))) ∧
    (∀ c : Fin 4, w.getLsbD (4 - c) =
      par [u.getLsbD (31 - c), u.getLsbD (27 - c), u.getLsbD (23 - c), u.getLsbD (19 - c),
           u.getLsbD (15 - c), u.getLsbD (11 - c), u.getLsbD (7 - c), u.getLsbD (3 - c)]) ∧
    w.getLsbD 0 = false

/-- 44_stream_encode.md R163 to R167 and R170: length, header, stop bit, row parity, column parity, constant bits. -/
def Obligations.StreamLaws : Prop :=
  ∀ (u : CardId) (s : State), ∃ w : Em4100Stream, Answers (.encode u) s (.stream w) ∧
    (positions w).length = 64 ∧
    IsEm4100 w ∧
    w.extractLsb' 55 9 = 0x1FF ∧ w.getLsbD 0 = false ∧
    w.extractLsb' 45 19 = 0b1111111110000000000 ∧
    w &&& 0xFFFFE00000000001#64 = 0xFF80000000000000#64 ∧
    (formatStream w).take 21 = "11111111 10000000 000".toList

/-- 44_stream_encode.md R168: the identifier read back from the data rows. -/
def Obligations.ReadBackGivesTheIdentifier : Prop :=
  ∀ (u : CardId) (s : State), ∃ w : Em4100Stream, Answers (.encode u) s (.stream w) ∧
    readBack w = u ∧
    ∀ k : Fin 8, ∀ j : Fin 4, w.getMsbD (19 + 5 * k + j) = (nibble u k).getMsbD j

/-- 44_stream_encode.md R169: `encode` is injective, its image is exactly the words that satisfy the stream laws, and there
are 2^32 of them. -/
def Obligations.EncodeIsInjectiveWithTheLawfulWordsAsImage : Prop :=
  ∀ s : State,
    (∀ (u v : CardId) (w : Em4100Stream),
      Answers (.encode u) s (.stream w) → Answers (.encode v) s (.stream w) → u = v) ∧
    (∀ w : Em4100Stream, (∃ u, Answers (.encode u) s (.stream w)) ↔ IsEm4100 w) ∧
    Nat.card { w : Em4100Stream // IsEm4100 w } = 2 ^ 32

/-- 44_stream_encode.md R162 and 00_scope.md R3: ENCODE is its stages run one after another, each tested alone. -/
def Obligations.EncodeIsItsStagesInOrder : Prop :=
  ∀ (u : CardId) (s₁ s₂ s₃ s : State) (d : DataField) (c : ColumnParity) (w : Em4100Stream),
    Answers (.dataField u) s₁ (.dataField d) → Answers (.columnParity d) s₂ (.columnParity c) →
    Answers (.streamAssemble d c) s₃ (.assembled w) → Answers (.encode u) s (.stream w)

/-! ### The host's functions -/

/-- 45_host_side.md R191. The character set is D11's and the treatment of zeros and of length D12's (logs 10 and 11). -/
def Obligations.ValidateResult : Prop :=
  ∀ (x : Text) (s : State),
    ((x ≠ [] ∧ (∀ c ∈ x, 48 ≤ c.toNat ∧ c.toNat ≤ 57) ∧
        Nat.ofDigits 10 (x.reverse.map fun c => c.toNat - 48) ≤ 4294967295) →
      ∃ u : CardId, u.toNat = Nat.ofDigits 10 (x.reverse.map fun c => c.toNat - 48) ∧
        exec (.validate x) s = .next { s with observed := .cardId u :: s.observed }) ∧
    (¬ (x ≠ [] ∧ (∀ c ∈ x, 48 ≤ c.toNat ∧ c.toNat ≤ 57) ∧
        Nat.ofDigits 10 (x.reverse.map fun c => c.toNat - 48) ≤ 4294967295) →
      exec (.validate x) s = .next { s with observed := .invalidUid :: s.observed })

/-- 45_host_side.md R191 and 92 D12, the spec's own decision (log 11): leading zeros change nothing, whatever the length. -/
def Obligations.LeadingZerosDoNotMatter : Prop :=
  ∀ (x : Text) (k : Nat) (s : State) (o : Observation), x ≠ [] →
    (Answers (.validate (List.replicate k '0' ++ x)) s o ↔ Answers (.validate x) s o)

/-- The decimal text of every identifier validates to it, and that of every larger number is InvalidUid and is not
truncated (45_host_side.md R191, 95 E4, E6). -/
def Obligations.DecimalTextValidatesToItsValue : Prop :=
  ∀ (n : Nat) (s : State),
    (n < 2 ^ 32 → Answers (.validate (Nat.toDigits 10 n)) s (.cardId (BitVec.ofNat 32 n))) ∧
    (2 ^ 32 ≤ n → Answers (.validate (Nat.toDigits 10 n)) s .invalidUid)

/-- 45_host_side.md R193. -/
def Obligations.HexTextResult : Prop :=
  ∀ (u : CardId) (s : State), ∃ x : Text,
    exec (.hexText u) s = .next { s with observed := .hexText x :: s.observed } ∧
    x.length = 8 ∧
    ∀ k : Fin 8, x[k.val]? = "0123456789abcdef".toList[u.toNat / 16 ^ (7 - k.val) % 16]?

/-- 45_host_side.md R194 and 20_memory.md R45: the display form, character by character, for any 64-bit word, and the byte
view that its groups are. -/
def Obligations.FormatResult : Prop :=
  ∀ (w : Em4100Stream) (s : State), ∃ x : Text,
    exec (.format w) s = .next { s with observed := .display x :: s.observed } ∧
    x.length = 71 ∧
    (∀ i : Fin 71, x[i.val]? = some (if i.val % 9 = 8 then ' ' else bitChar (w.getMsbD (8 * (i.val / 9) + i.val % 9)))) ∧
    (∀ g j : Fin 8, (streamByte w g).getMsbD j = w.getMsbD (8 * g + j)) ∧
    (∀ g : Fin 8, (x.drop (9 * g)).take 8 = bitText (streamByte w g))

/-- 45_host_side.md R195 and R197: a valid request is one transaction of CORE and the response record. That the level stays on
`uid_i`, settled, is the model's choice (log 20). -/
def Obligations.ConvertOfAValidRequest : Prop :=
  ∀ (x : Text) (u : CardId) (h e : Text) (w : Em4100Stream) (s : State),
    Answers (.validate x) s (.cardId u) → Answers (.hexText u) s (.hexText h) → Answers (.encode u) s (.stream w) →
    Answers (.format w) s (.display e) →
      exec (.convert x) s = .next
        { s with uidI := some u, stability := .settled, observed := .response ⟨x, h, e⟩ :: s.observed }

/-- 45_host_side.md R196: an invalid request gives InvalidUid, CORE is not driven, nothing else comes back; and no request
fails in any other way. -/
def Obligations.ConvertOfAnInvalidRequest : Prop :=
  ∀ (x : Text) (s : State),
    (Answers (.validate x) s .invalidUid →
      exec (.convert x) s = .next { s with observed := .invalidUid :: s.observed }) ∧
    (Answers (.convert x) s .invalidUid ↔ Answers (.validate x) s .invalidUid) ∧
    ((∃ u, Answers (.validate x) s (.cardId u)) ∨ Answers (.validate x) s .invalidUid)

/-- DOC's text pipeline (42_data_field.md R120, 45_host_side.md R199) computes what CORE's bit pipeline does: the text form of
the expander on `'0'` twice and then on the eight hex characters, concatenated, is the data field. -/
def Obligations.TextPipelineGivesTheDataField : Prop :=
  ∀ (u : CardId) (s : State), ∃ (h : Text) (gs : List Text) (d : DataField),
    Answers (.hexText u) s (.hexText h) ∧
    List.Forall₂ (fun c g => Answers (.nibbleExpand (.hexChar c)) s (.parityText g)) ('0' :: '0' :: h) gs ∧
    Answers (.dataField u) s (.dataField d) ∧
    gs.flatten = bitText d

/-! ### The ports, settling, and independence of history -/

/-- 45_host_side.md R198 (logs 16, 17 and 22): what the host's other actions do, and what a step does when it asks for nothing:
each changes the input port at most. -/
def Obligations.WireActionsChangeTheInputPortOnly : Prop :=
  ∀ (s : State) (rest : List HostAction),
    (s.pending = [] → step s = .next { s with instant := s.instant + 1 }) ∧
    (∀ level, s.pending = .drive level :: rest → step s = .next
      { s with pending := rest, instant := s.instant + 1, uidI := level,
               stability := if s.uidI = level then s.stability else .held 0 }) ∧
    (∀ t t₀, s.pending = .hold t :: rest → s.stability = .held t₀ → step s = .next
      { s with pending := rest, instant := s.instant + 1, stability := .held (t₀ + t) }) ∧
    (∀ t, s.pending = .hold t :: rest → s.stability = .settled → step s = .next
      { s with pending := rest, instant := s.instant + 1 }) ∧
    (s.pending = .settle :: rest → step s = .next
      { s with pending := rest, instant := s.instant + 1, stability := .settled })

/-- 70_reset_and_hazards.md R264 and 45_host_side.md R198 (logs 6, 7 and 22): after a change of `uid_i`, a sample completes
exactly when the level was held for T_PD, and then gives its encoding. -/
def Obligations.SampleCompletesOnceTheInputWasHeld : Prop :=
  ∀ (s : State) (u : CardId) (t : Nat) (rest : List HostAction),
    s.pending = .drive (some u) :: .hold t :: .sample :: rest → s.uidI ≠ some u →
      runSteps 3 s =
        if Config.tPD ≤ t then .next
          { s with pending := rest, uidI := some u, stability := .held t, instant := s.instant + 3,
                   observed := .stream (encodeStream u) :: s.observed }
        else .refused .notSettled

/-- 45_host_side.md R197: ENCODE as one transaction gives what driving, waiting T_PD and sampling give as three actions. The
actions are the model's form of R198 (log 22), and that the level stays on `uid_i` is the model's choice (log 20). -/
def Obligations.EncodeIsDriveWaitSample : Prop :=
  ∀ (s s' : State) (u : CardId) (rest : List HostAction),
    s.pending = .drive (some u) :: .settle :: .sample :: rest →
    s' = { s with pending := .launch (encode (.encode u)) :: rest, instant := s.instant + 2 } →
      ∃ t, runSteps 3 s = .next t ∧ step s' = .next t ∧ t.observed = .stream (encodeStream u) :: s.observed

/-- 10_state.md R29: while the level on `uid_i` stays, a settled output stays settled at its encoding, whatever step is
taken. That driving the level already there keeps it settled is the model's reading of R263 (log 16). -/
def Obligations.SettledOutputStaysWhileTheInputDoes : Prop :=
  ∀ (s t : State) (u : CardId), s.uidI = some u → s.stability.isSettled = true → step s = .next t →
    t.uidI = some u → t.stability.isSettled = true ∧ t.streamO = encodeStream u

/-- 20_memory.md R42: reading the output (the sample action, log 22) changes nothing, and reading it again gives the same. -/
def Obligations.SamplingTwiceGivesTheSame : Prop :=
  ∀ (s : State) (u : CardId) (rest : List HostAction), s.uidI = some u → s.stability.isSettled = true →
    s.pending = .sample :: .sample :: rest →
      runSteps 2 s = .next
        { s with pending := rest, instant := s.instant + 2,
                 observed := .stream (encodeStream u) :: .stream (encodeStream u) :: s.observed }

/-- 10_state.md R27 and R30, 30_encoding.md R68, 45_host_side.md R200: what each transaction gives back depends on that
transaction alone. One function `f` of the instruction gives the results of any list of transactions, from any state. The
list held in `State.pending` is the model's choice (log 1). -/
def Obligations.EachTransactionsResultIsItsOwn : Prop :=
  ∃ f : Instr → Observation,
    (∀ u, f (.encode u) = .stream (encodeStream u)) ∧
    ∀ (is : List Instr) (rest : List HostAction) (s : State), (∀ i ∈ is, i.wellFormed = true) →
      s.pending = is.map (fun i => HostAction.launch (encode i)) ++ rest →
        ∃ t, runSteps is.length s = .next t ∧ t.pending = rest ∧
          t.observed = (is.map f).reverse ++ s.observed

/-- Every step keeps the invariant: everything the host has got back is lawful, whatever the host does. -/
def Obligations.StepKeepsObservationsLawful : Prop :=
  ∀ s t : State, s.Inv → step s = .next t → t.Inv

/-- 70_reset_and_hazards.md R260 and 93 U1: at reset the invariant holds, the input is undriven (the model's choice, log 4),
and the output gives no observation. -/
def Obligations.ResetIsLawfulAndUnobservable : Prop :=
  State.reset.Inv ∧ State.reset.uidI = none ∧
    ∀ view, State.reset.sample view = .refused .inputUndriven
end

