-- ==== Sys2Proof/Laws/Decode.lean ====
section
/-! SUPPORT. What the wire reader of the decoder does, said once. -/

namespace Sys2Proof

/-- A number that fits the wires is read as it is. -/
theorem wiresOf_of_lt {k w : Nat} (h : w < 2 ^ k) : wiresOf k k w = .ok (BitVec.ofNat k w) := by
  unfold wiresOf
  rw [if_neg (by simp), if_pos h]

theorem wiresOf_of_width {k nbits : Nat} (h : nbits ≠ k) (w : Nat) : wiresOf k nbits w = .error (.wrongWidth k nbits) := by
  unfold wiresOf
  rw [if_pos h]

@[simp] theorem wiresOf_toNat {k : Nat} (v : BitVec k) : wiresOf k k v.toNat = .ok v := by
  rw [wiresOf_of_lt v.isLt, BitVec.ofNat_toNat, BitVec.setWidth_eq]

/-- What was read is what stands on the wires, bit for bit. -/
theorem wiresOf_ok {k nbits w : Nat} {v : BitVec k} (h : wiresOf k nbits w = .ok v) : payloadOf v = .bits nbits w := by
  unfold wiresOf at h
  split at h
  · cases h
  · rename_i hn
    split at h
    · rename_i hw
      cases h
      simp only [payloadOf, BitVec.toNat_ofNat, Nat.mod_eq_of_lt hw, Decidable.not_not.1 hn]
    · cases h

/-- STREAM_ASSEMBLE's two operands are the two slices of its 54 wires. -/
theorem streamOperand_fields (d : DataField) (c : ColumnParity) :
    (d ++ c).extractLsb' 4 50 = d ∧ (d ++ c).extractLsb' 0 4 = c := by
  constructor
  · apply BitVec.eq_of_getLsbD_eq
    intro i hi
    rw [BitVec.getLsbD_extractLsb', BitVec.getLsbD_append]
    simp [hi]
  · apply BitVec.eq_of_getLsbD_eq
    intro i hi
    rw [BitVec.getLsbD_extractLsb', BitVec.getLsbD_append]
    simp [hi]

theorem streamOperand_join (v : BitVec 54) : v.extractLsb' 4 50 ++ v.extractLsb' 0 4 = v := by
  apply BitVec.eq_of_getLsbD_eq
  intro i hi
  rw [BitVec.getLsbD_append, BitVec.getLsbD_extractLsb', BitVec.getLsbD_extractLsb']
  by_cases h : i < 4
  · simp [h]
  · simp only [h, decide_false, show i - 4 < 50 by omega, decide_true, Bool.true_and]
    rw [show 4 + (i - 4) = i by omega]
    rfl

end Sys2Proof
end

