-- ==== Sys2Proof/Laws/State.lean ====
section
/-! SUPPORT. What each operation on the state does to each field, so that no proof unfolds a record update. -/

namespace Sys2Proof.Machine

variable (s : State)

@[simp] theorem State.tick_pending : s.tick.pending = s.pending := rfl
@[simp] theorem State.tick_uidI : s.tick.uidI = s.uidI := rfl
@[simp] theorem State.tick_stability : s.tick.stability = s.stability := rfl
@[simp] theorem State.tick_observed : s.tick.observed = s.observed := rfl
@[simp] theorem State.tick_instant : s.tick.instant = s.instant + 1 := rfl

@[simp] theorem State.observe_pending (o : Observation) : (s.observe o).pending = s.pending := rfl
@[simp] theorem State.observe_uidI (o : Observation) : (s.observe o).uidI = s.uidI := rfl
@[simp] theorem State.observe_stability (o : Observation) : (s.observe o).stability = s.stability := rfl
@[simp] theorem State.observe_observed (o : Observation) : (s.observe o).observed = o :: s.observed := rfl
@[simp] theorem State.observe_instant (o : Observation) : (s.observe o).instant = s.instant := rfl

@[simp] theorem State.hold_pending (t : Nat) : (s.hold t).pending = s.pending := rfl
@[simp] theorem State.hold_uidI (t : Nat) : (s.hold t).uidI = s.uidI := rfl
@[simp] theorem State.hold_stability (t : Nat) : (s.hold t).stability = s.stability.hold t := rfl
@[simp] theorem State.hold_observed (t : Nat) : (s.hold t).observed = s.observed := rfl
@[simp] theorem State.hold_instant (t : Nat) : (s.hold t).instant = s.instant := rfl

@[simp] theorem State.settle_pending : s.settle.pending = s.pending := rfl
@[simp] theorem State.settle_uidI : s.settle.uidI = s.uidI := rfl
@[simp] theorem State.settle_stability : s.settle.stability = .settled := rfl
@[simp] theorem State.settle_observed : s.settle.observed = s.observed := rfl
@[simp] theorem State.settle_instant : s.settle.instant = s.instant := rfl

@[simp] theorem State.enqueueFirst_pending (a : HostAction) : (s.enqueueFirst a).pending = a :: s.pending := rfl
@[simp] theorem State.enqueueFirst_uidI (a : HostAction) : (s.enqueueFirst a).uidI = s.uidI := rfl
@[simp] theorem State.enqueueFirst_stability (a : HostAction) : (s.enqueueFirst a).stability = s.stability := rfl
@[simp] theorem State.enqueueFirst_observed (a : HostAction) : (s.enqueueFirst a).observed = s.observed := rfl
@[simp] theorem State.enqueueFirst_instant (a : HostAction) : (s.enqueueFirst a).instant = s.instant := rfl

@[simp] theorem State.drive_pending (level : Option CardId) : (s.drive level).pending = s.pending := by
  unfold State.drive; split <;> rfl

@[simp] theorem State.drive_uidI (level : Option CardId) : (s.drive level).uidI = level := by
  unfold State.drive; split <;> simp_all

@[simp] theorem State.drive_observed (level : Option CardId) : (s.drive level).observed = s.observed := by
  unfold State.drive; split <;> rfl

@[simp] theorem State.drive_instant (level : Option CardId) : (s.drive level).instant = s.instant := by
  unfold State.drive; split <;> rfl

theorem State.drive_stability_of_same {level : Option CardId} (h : s.uidI = level) :
    (s.drive level).stability = s.stability := by simp [State.drive, h]

theorem State.drive_stability_of_change {level : Option CardId} (h : s.uidI ≠ level) :
    (s.drive level).stability = .held 0 := by simp [State.drive, h]

@[simp] theorem Stability.hold_held (t₀ t : Nat) : (Stability.held t₀).hold t = .held (t₀ + t) := rfl
@[simp] theorem Stability.hold_settled (t : Nat) : Stability.settled.hold t = .settled := rfl
@[simp] theorem Stability.isSettled_settled : Stability.settled.isSettled = true := rfl
theorem Stability.isSettled_held (t : Nat) : (Stability.held t).isSettled = decide (Config.tPD ≤ t) := rfl

/-- Holding longer never unsettles the port. -/
theorem Stability.isSettled_hold {x : Stability} (h : x.isSettled = true) (t : Nat) : (x.hold t).isSettled = true := by
  cases x with
  | held t₀ =>
    simp only [Stability.isSettled_held, decide_eq_true_eq, Stability.hold_held] at h ⊢
    omega
  | settled => rfl

end Sys2Proof.Machine
end

