-- ==== Sys2Proof/Laws/Ops.lean ====
section
/-! SUPPORT. One lemma for each shared operation, saying once everything it can do, and one for each meaning. Provers cite
these and do not unfold. -/

namespace Sys2Proof.Machine

variable {s t : State} {u : CardId}

/-- A settled port shows the encoding of its input (10_state.md R29). -/
theorem State.streamO_of_settled (hu : s.uidI = some u) (hs : s.stability.isSettled = true) :
    s.streamO = encodeStream u := by
  simp [State.streamO, hu, hs]

/-- A sample of a driven and settled port completes. -/
theorem State.sample_of_settled (hu : s.uidI = some u) (hs : s.stability.isSettled = true)
    (view : Em4100Stream → Observation) : s.sample view = .next (s.observe (view (encodeStream u))) := by
  simp [State.sample, hu, hs, State.streamO_of_settled hu hs]

theorem State.sample_of_undriven (hu : s.uidI = none) (view : Em4100Stream → Observation) :
    s.sample view = .refused .inputUndriven := by
  simp [State.sample, hu]

theorem State.sample_of_unsettled (hu : s.uidI = some u) (hs : s.stability.isSettled = false)
    (view : Em4100Stream → Observation) : s.sample view = .refused .notSettled := by
  simp [State.sample, hu, hs]

/-- Everything a sample can do when it completes. -/
theorem State.sample_next {view : Em4100Stream → Observation} (h : s.sample view = .next t) :
    ∃ u, s.uidI = some u ∧ s.stability.isSettled = true ∧ t = s.observe (view (encodeStream u)) := by
  cases hu : s.uidI with
  | none => simp [State.sample_of_undriven hu] at h
  | some u =>
    cases hs : s.stability.isSettled with
    | false => simp [State.sample_of_unsettled hu hs] at h
    | true =>
      rw [State.sample_of_settled hu hs] at h
      exact ⟨u, rfl, rfl, (Host.Outcome.next.inj h).symm⟩

/-- Driving and then waiting T_PD leaves the level there, settled, and nothing else changed. -/
theorem State.settle_drive (s : State) (level : Option CardId) :
    (s.drive level).settle = { s with uidI := level, stability := .settled } := by
  unfold State.drive State.settle
  split <;> simp_all

/-- A transaction always completes: the level stays on the port, settled, and the host gets the view of its encoding. -/
theorem State.transact_eq (s : State) (u : CardId) (view : Em4100Stream → Observation) :
    s.transact u view =
      .next { s with uidI := some u, stability := .settled, observed := view (encodeStream u) :: s.observed } := by
  rw [State.transact, State.settle_drive, State.sample_of_settled (u := u) rfl rfl]
  rfl

theorem execEncode_eq (u : CardId) (s : State) :
    execEncode u s =
      .next { s with uidI := some u, stability := .settled, observed := .stream (encodeStream u) :: s.observed } :=
  State.transact_eq s u .stream

theorem execHexSlice_eq (u : CardId) (s : State) : execHexSlice u s = .next (s.observe (.nibbles (nibbles u))) := rfl

theorem execRowParity_eq (n : Nibble) (s : State) : execRowParity n s = .next (s.observe (.rowParity (rowParityOf n))) :=
  rfl

theorem execNibbleExpand_nibble (n : Nibble) (s : State) :
    execNibbleExpand (.nibble n) s = .next (s.observe (.parityNibble (expand n))) := rfl

theorem execNibbleExpand_hexChar {c : Char} {n : Nibble} (h : hexCharValue c = some n) (s : State) :
    execNibbleExpand (.hexChar c) s = .next (s.observe (.parityText (bitText (expand n)))) := by
  simp [execNibbleExpand, h]

theorem execNibbleExpand_notHex {c : Char} (h : hexCharValue c = none) (s : State) :
    execNibbleExpand (.hexChar c) s = .refused (.notHexDigit c) := by
  simp [execNibbleExpand, h]

theorem execDataField_eq (u : CardId) (s : State) : execDataField u s = .next (s.observe (.dataField (dataFieldOf u))) :=
  rfl

theorem execColumnParity_eq (d : DataField) (s : State) :
    execColumnParity d s = .next (s.observe (.columnParity (columnParityOf d))) := rfl

theorem execStreamAssemble_eq (d : DataField) (c : ColumnParity) (s : State) :
    execStreamAssemble d c s = .next (s.observe (.assembled (assemble d c))) := rfl

theorem execValidate_valid {x : Text} (h : validate x = some u) (s : State) :
    execValidate x s = .next (s.observe (.cardId u)) := by
  simp [execValidate, h]

theorem execValidate_invalid {x : Text} (h : validate x = none) (s : State) :
    execValidate x s = .next (s.observe .invalidUid) := by
  simp [execValidate, h, State.returnInvalidUid]

theorem execHexText_eq (u : CardId) (s : State) : execHexText u s = .next (s.observe (.hexText (hexTextOf u))) := rfl

theorem execFormat_eq (w : Em4100Stream) (s : State) : execFormat w s = .next (s.observe (.display (formatStream w))) := rfl

theorem execConvert_valid {x : Text} (h : validate x = some u) (s : State) :
    execConvert x s =
      .next { s with uidI := some u, stability := .settled,
                     observed := .response ⟨x, hexTextOf u, formatStream (encodeStream u)⟩ :: s.observed } := by
  simp [execConvert, h, State.transact_eq]

theorem execConvert_invalid {x : Text} (h : validate x = none) (s : State) :
    execConvert x s = .next (s.observe .invalidUid) := by
  simp [execConvert, h, State.returnInvalidUid]

/-- The two ways of saying which characters the expander's text form takes agree. -/
theorem isSome_hexCharValue (c : Char) : (hexCharValue c).isSome = isLowerHexChar c := by
  simp only [hexCharValue, isLowerHexChar]
  split
  · simp_all
  · split <;> simp_all

/-- The next action and what is left of the queue. -/
theorem State.nextAction_cons {a : HostAction} {rest : List HostAction} (h : s.pending = a :: rest) :
    s.nextAction = some (a, { s with pending := rest }) := by
  simp [State.nextAction, h]

theorem State.nextAction_nil (h : s.pending = []) : s.nextAction = none := by
  simp [State.nextAction, h]

/-- A step performs the next action, one instant later. -/
theorem step_cons {a : HostAction} {rest : List HostAction} (h : s.pending = a :: rest) :
    step s = perform a { s with pending := rest, instant := s.instant + 1 } := by
  simp [step, State.nextAction_cons h, State.tick]

theorem step_nil (h : s.pending = []) : step s = .next { s with instant := s.instant + 1 } := by
  simp [step, State.nextAction_nil h, State.tick]

/-- A step that samples a driven and settled port. -/
theorem step_sample_of_settled {rest : List HostAction} (hp : s.pending = .sample :: rest) (hu : s.uidI = some u)
    (hs : s.stability.isSettled = true) :
    step s = .next { s with pending := rest, instant := s.instant + 1,
                            observed := .stream (encodeStream u) :: s.observed } := by
  rw [step_cons hp]
  exact State.sample_of_settled (s := { s with pending := rest, instant := s.instant + 1 }) hu hs .stream

/-- A step that samples too early. -/
theorem step_sample_of_unsettled {rest : List HostAction} (hp : s.pending = .sample :: rest) (hu : s.uidI = some u)
    (hs : s.stability.isSettled = false) : step s = .refused .notSettled := by
  rw [step_cons hp]
  exact State.sample_of_unsettled (s := { s with pending := rest, instant := s.instant + 1 }) hu hs .stream

end Sys2Proof.Machine
end

