-- ==== Sys2Proof/Laws/PerInstr.lean ====
section
/-! SUPPORT. A law of the encoder, one lemma for each instruction: the operand it puts on an input of n wires is a level of
n wires. -/

namespace Sys2Proof.Laws.OperandFits

/-- The encoded operand of `i`, where it is bits, fits its wires. -/
def Statement (i : Instr) : Prop :=
  ∀ n w, (encode i).payload = .bits n w → w < 2 ^ n

/-- A `k`-bit operand fits `k` wires. -/
theorem payloadOf_fits {k : Nat} (v : BitVec k) {n w : Nat} (h : payloadOf v = .bits n w) : w < 2 ^ n := by
  obtain ⟨rfl, rfl⟩ := Payload.bits.inj h
  exact v.isLt

theorem encode (u : CardId) : Statement (.encode u) := fun _ _ => payloadOf_fits u
theorem hexSlice (u : CardId) : Statement (.hexSlice u) := fun _ _ => payloadOf_fits u
theorem rowParity (n : Nibble) : Statement (.rowParity n) := fun _ _ => payloadOf_fits n

theorem nibbleExpand (x : ExpandOperand) : Statement (.nibbleExpand x) := by
  cases x with
  | nibble n => exact fun _ _ => payloadOf_fits n
  | hexChar c => intro _ _ h; cases h

theorem dataField (u : CardId) : Statement (.dataField u) := fun _ _ => payloadOf_fits u
theorem columnParity (d : DataField) : Statement (.columnParity d) := fun _ _ => payloadOf_fits d

theorem streamAssemble (d : DataField) (c : ColumnParity) : Statement (.streamAssemble d c) :=
  fun _ _ => payloadOf_fits (d ++ c)

theorem validate (t : Text) : Statement (.validate t) := fun _ _ h => by cases h
theorem hexText (u : CardId) : Statement (.hexText u) := fun _ _ => payloadOf_fits u
theorem format (w : Em4100Stream) : Statement (.format w) := fun _ _ => payloadOf_fits w
theorem convert (t : Text) : Statement (.convert t) := fun _ _ h => by cases h

end Sys2Proof.Laws.OperandFits
end

