-- ==== Sys2Proof/Laws/Run.lean ====
section
/-! SUPPORT. Running several steps, and what a run of the host's machine is. -/

namespace Sys2Proof.Machine

@[simp] theorem runSteps_zero (s : State) : runSteps 0 s = .next s := rfl

/-- A run goes on from the next state of its first step. -/
theorem runSteps_of_next {s t : State} (h : step s = .next t) (k : Nat) : runSteps (k + 1) s = runSteps k t := by
  simp [runSteps, h]

theorem runSteps_of_refused {s : State} {r : Refusal} (h : step s = .refused r) (k : Nat) :
    runSteps (k + 1) s = .refused r := by
  simp [runSteps, h]

/-- The host's own way of running its machine is `runSteps`. -/
theorem core_run_eq_runSteps (k : Nat) (s : State) : Host.Core.run core k s = runSteps k s := by
  induction k generalizing s with
  | zero => rfl
  | succ k ih =>
    have core_step : core.step s = step s := rfl
    simp only [Host.Core.run, runSteps, core_step]
    cases step s with
    | next t => exact ih t
    | fault f => rfl
    | refused r => rfl

end Sys2Proof.Machine
end

