-- ==== Sys2Proof/Laws/Stages.lean ====
section
/-! SUPPORT. The bits of each stage of CORE, so that no proof unfolds a concatenation. -/

namespace Sys2Proof.Machine

theorem rowParityOf_eq (n : Nibble) :
    rowParityOf n = (n.getLsbD 3 ^^ n.getLsbD 2 ^^ n.getLsbD 1 ^^ n.getLsbD 0) := by
  revert n; decide

theorem nibble_getElem (u : CardId) (k : Fin 8) (j : Nat) (h : j < 4) :
    (nibble u k)[j] = u.getLsbD (28 - 4 * k + j) := by
  simp [nibble, BitVec.getElem_extractLsb']

theorem expand_getElem (n : Nibble) (i : Nat) (h : i < 5) :
    (expand n)[i] = if i = 0 then (n[3] ^^ n[2] ^^ n[1] ^^ n[0]) else n.getLsbD (i - 1) := by
  rw [← BitVec.getLsbD_eq_getElem]
  simp only [expand, BitVec.getLsbD_append, BitVec.getLsbD_ofBool, rowParityOf_eq]
  by_cases h : i = 0 <;> simp [h]

/-- The zero nibble expands to the zero row (41_nibble_parity.md R100). -/
theorem expand_zero : expand 0 = 0#5 := by decide

/-- Bit i of the data field is bit `i % 5` of row `9 - i / 5`. -/
theorem dataFieldOf_getElem (u : CardId) (i : Nat) (h : i < 50) :
    (dataFieldOf u)[i] = if h : i < 40 then (expand (nibble u ⟨7 - i / 5, by omega⟩))[i % 5] else false := by
  rw [← BitVec.getLsbD_eq_getElem]
  simp only [dataFieldOf, expand_zero, BitVec.getLsbD_append]
  interval_cases i <;> simp

theorem columnParityOf_getElem (d : DataField) (i : Nat) (h : i < 4) :
    (columnParityOf d)[i] = columnParityBit d (3 - i) := by
  rw [← BitVec.getLsbD_eq_getElem]
  simp only [columnParityOf, BitVec.getLsbD_append]
  interval_cases i <;> simp

theorem assemble_getElem (d : DataField) (cp : ColumnParity) (i : Nat) (h : i < 64) :
    (assemble d cp)[i] =
      if i = 0 then false else if h : i < 5 then cp[i - 1] else if h : i < 55 then d[i - 5] else true := by
  rw [← BitVec.getLsbD_eq_getElem]
  simp only [assemble, BitVec.getLsbD_append]
  interval_cases i <;> simp

end Sys2Proof.Machine
end

