-- ==== Sys2Proof/Tests/Slice0.lean ====
section
/-! SUPPORT. The model's own tests. Every expected result is copied from the spec: the words and values from
95_test_vectors.md and the tables of the section files, each named at its test. Then one witness for each statement that
has hypotheses: a concrete state and operands that meet them all. -/

namespace Sys2Proof.Tests

open Sys2Proof.Machine

/-- What the host gets back from `i` after reset, newest first. -/
def back (i : Instr) : Option (List Observation) :=
  match exec i State.reset with
  | .next t => some t.observed
  | .fault _ => none
  | .refused _ => none

/-! ### WellFormed: one ill-formed term for each check -/

theorem test_upper_case_is_ill_formed : (Instr.nibbleExpand (.hexChar 'A')).wellFormed = false := by decide
theorem test_past_f_is_ill_formed : (Instr.nibbleExpand (.hexChar 'g')).wellFormed = false := by decide
theorem test_lower_case_is_well_formed : (Instr.nibbleExpand (.hexChar 'a')).wellFormed = true := by decide

/-! ### Decoding: a word of each constructor, written from 30_encoding.md R61, R63, R64 and opcode_table.json -/

theorem test_decode_encode :
    decode ⟨.core, .bits 32 0b10001001101010111100110111101111⟩ = .ok (.encode 0x89ABCDEF) := by decide
theorem test_decode_hexSlice :
    decode ⟨.hexSlicer, .bits 32 0b00010010001101000101011001111000⟩ = .ok (.hexSlice 0x12345678) := by decide
theorem test_decode_rowParity : decode ⟨.rowParityGenerator, .bits 4 0b1110⟩ = .ok (.rowParity 0xE) := by decide
theorem test_decode_nibbleExpand :
    decode ⟨.nibbleExpander, .bits 4 0b0001⟩ = .ok (.nibbleExpand (.nibble 1)) := by decide
theorem test_decode_nibbleExpand_text :
    decode ⟨.nibbleExpander, .text ['e']⟩ = .ok (.nibbleExpand (.hexChar 'e')) := by decide
theorem test_decode_dataField :
    decode ⟨.dataFieldAssembler, .bits 32 0b10000000000000000000000000000000⟩ = .ok (.dataField 0x80000000) := by decide
theorem test_decode_columnParity :
    decode ⟨.columnParityGenerator, .bits 50 0b10⟩ = .ok (.columnParity 2) := by decide
theorem test_decode_streamAssemble :
    decode ⟨.streamAssembler, .bits 54 (2 ^ 53 + 0b1000)⟩ = .ok (.streamAssemble 0x2000000000000 0b1000) := by decide
theorem test_decode_validate : decode ⟨.validator, .text ['0', '7']⟩ = .ok (.validate ['0', '7']) := by decide
theorem test_decode_hexText : decode ⟨.hexTextRenderer, .bits 32 255⟩ = .ok (.hexText 0xFF) := by decide
theorem test_decode_format :
    decode ⟨.formatter, .bits 64 0xFFFFFFFFFFFFFFFE⟩ = .ok (.format 0xFFFFFFFFFFFFFFFE) := by decide
theorem test_decode_convert : decode ⟨.converter, .text ['1']⟩ = .ok (.convert ['1']) := by decide

/-- R65: the word 0 is ENCODE as every other is. -/
theorem test_word_zero_is_encode : decodeTableWord 32 0 = some (.encode 0) := by decide
/-- R67: the operand is always 32 bits. -/
theorem test_33_bits_are_no_word : decodeTableWord 33 0 = none := by decide
theorem test_wide_number_is_no_word :
    decode ⟨.core, .bits 32 (2 ^ 32)⟩ = .error (.valueTooWide 32 (2 ^ 32)) := by decide
/-- 93 U6. -/
theorem test_two_characters_are_no_hex_digit : decode ⟨.nibbleExpander, .text ['1', '2']⟩ = .error .notOneCharacter := by
  decide

/-! ### Results: 95_test_vectors.md -/

/-- E2, V-ENCODE. -/
theorem test_encode_1 : back (.encode 1) = some [.stream 0xFF80000000000062] := by decide
/-- V-ENCODE: every digit and both parities differ from row to row. -/
theorem test_encode_12345678 : back (.encode 0x12345678) = some [.stream 0xFF80032992A63E30] := by decide
/-- V-HEX_SLICE. -/
theorem test_hexSlice : back (.hexSlice 0x89ABCDEF) = some [.nibbles #v[8, 9, 0xA, 0xB, 0xC, 0xD, 0xE, 0xF]] := by decide
/-- R100: four set bits, even. -/
theorem test_rowParity_F : back (.rowParity 0xF) = some [.rowParity false] := by decide
/-- R100, DOC's example, and 90_conflicts.md C1: not the complement. -/
theorem test_rowParity_1 : back (.rowParity 1) = some [.rowParity true] := by decide
/-- R101's table. -/
theorem test_nibbleExpand_E : back (.nibbleExpand (.nibble 0xE)) = some [.parityNibble 0b11101] := by decide
/-- R101's table, text form (R199). -/
theorem test_nibbleExpand_text_b :
    back (.nibbleExpand (.hexChar 'b')) = some [.parityText ['1', '0', '1', '1', '1']] := by decide
/-- V-DATA_FIELD. -/
theorem test_dataField_12345678 : back (.dataField 0x12345678) = some [.dataField 0x000194C9531F1] := by decide
theorem test_dataField_80000000 : back (.dataField 0x80000000) = some [.dataField 0x0008800000000] := by decide
/-- V-COLUMN_PARITY, D[6] only: row 1 is counted. -/
theorem test_columnParity_row1 :
    back (.columnParity 0b00000010000000000000000000000000000000000000000000) = some [.columnParity 0b0100] := by decide
/-- V-COLUMN_PARITY, D[4] only: the row parity column is not. -/
theorem test_columnParity_excluded :
    back (.columnParity 0b00001000000000000000000000000000000000000000000000) = some [.columnParity 0b0000] := by decide
/-- V-STREAM_ASSEMBLE. -/
theorem test_streamAssemble_C : back (.streamAssemble 0 0b1111) = some [.assembled 0xFF8000000000001E] := by decide
theorem test_streamAssemble_D :
    back (.streamAssemble (BitVec.allOnes 50) 0) = some [.assembled 0xFFFFFFFFFFFFFFE0] := by decide
/-- E4. -/
theorem test_validate_top : back (.validate "4294967295".toList) = some [.cardId 4294967295] := by decide
/-- E4: boundary +1. -/
theorem test_validate_over : back (.validate "4294967296".toList) = some [.invalidUid] := by decide
/-- V-HEX_TEXT. -/
theorem test_hexText : back (.hexText 0xDEADBEEF) = some [.hexText "deadbeef".toList] := by decide
/-- V-FORMAT. -/
theorem test_format : back (.format 0xFFFFFFFFFFFFFFFE) = some [.display
    "11111111 11111111 11111111 11111111 11111111 11111111 11111111 11111110".toList] := by decide
/-- P2, step 3: the request is echoed with its zeros. -/
theorem test_convert_007 : back (.convert "007".toList) = some [.response ⟨"007".toList, "00000007".toList,
    "11111111 10000000 00000000 00000000 00000000 00000000 00000001 11101110".toList⟩] := by decide
/-- R192: a trailing letter. -/
theorem test_convert_12a : back (.convert "12a".toList) = some [.invalidUid] := by decide

/-- E5 and R192: no text at all, signs and spaces. -/
theorem test_validate_formats :
    [[], "-5".toList, " 12".toList, "+12".toList, "12\n".toList, "1.0".toList].map validate
      = [none, none, none, none, none, none] := by decide
/-- R192: Arabic-Indic digits (D11). -/
theorem test_validate_other_digits : validate [Char.ofNat 0x661, Char.ofNat 0x662] = none := by decide
/-- R192: length is no limit (D12). -/
theorem test_validate_long : validate "0000000000004294967295".toList = some 4294967295 := by decide
/-- P4: reading back. -/
theorem test_readBack : readBack 0xFF801BED377EF7C0 = 0xDEADBEEF := by decide

/-! ### Witnesses: the hypotheses of each statement can be met -/

/-- A state in which CORE's input is driven with 1 and settled. -/
def driven (pending : List HostAction) : State :=
  { State.reset with pending := pending, uidI := some 1, stability := .settled }

/-- DecodeOfEncodeIsTheInstruction, EveryInstructionCompletes. -/
theorem witness_wellFormed : (Instr.nibbleExpand (.hexChar 'f')).wellFormed = true
    ∧ (Instr.encode 0xFFFFFFFF).wellFormed = true := by decide
/-- EncodeOfDecodeIsTheLaunch. -/
theorem witness_decodes : decode ⟨.streamAssembler, .bits 54 (2 ^ 54 - 1)⟩
    = .ok (.streamAssemble 0x3FFFFFFFFFFFF 0b1111) := by decide
/-- EveryPortWordIsEncode and NoInputWordIsRefused, at the top of the range. -/
theorem witness_port_word : (4294967295 : Nat) < 2 ^ 32
    ∧ decodeTableWord 32 4294967295 = some (.encode 0xFFFFFFFF) := by decide
/-- OtherWidthsAndUndefinedLevelsAreRefused. -/
theorem witness_other_width : (31 : Nat) ≠ 32
    ∧ (driven [.launch ⟨.core, .undefinedLevel⟩]).pending = [.launch ⟨.core, .undefinedLevel⟩] := by decide
/-- StepRunsTheDecodedInstruction. -/
theorem witness_step : (driven [.launch ⟨.core, .bits 32 2⟩]).pending = [.launch ⟨.core, .bits 32 2⟩]
    ∧ decode ⟨.core, .bits 32 2⟩ = .ok (.encode 2) := by decide
/-- OnlyEncodeAndConvertTouchThePorts. -/
theorem witness_ports : ∃ t, exec (.rowParity 1) (driven []) = .next t ∧ (∀ u, Instr.rowParity 1 ≠ .encode u)
    ∧ (∀ x, Instr.rowParity 1 ≠ .convert x) :=
  ⟨_, execRowParity_eq 1 (driven []), nofun, nofun⟩
/-- StepIsRefusedIffTheHostBreaksItsDuty, both sides. -/
theorem witness_duty : (driven [.sample]).DutyMet ∧ ¬ ({ State.reset with pending := [.sample] } : State).DutyMet := by
  constructor
  · exact ⟨nofun, rfl⟩
  · exact fun h => h.1 rfl
/-- ParityNibblesAreTheEvenPatterns. -/
theorem witness_parityNibble : Answers (.nibbleExpand (.nibble 1)) State.reset (.parityNibble 0b00011)
    ∧ Answers (.dataField 1) State.reset (.dataField 0b00011) :=
  ⟨⟨_, execNibbleExpand_nibble 1 State.reset, by decide⟩, ⟨_, execDataField_eq 1 State.reset, by decide⟩⟩
/-- ExpandTextResult: the ends of the two ranges, and the characters next to them. -/
theorem witness_expandText :
    (48 ≤ '0'.toNat ∧ '0'.toNat ≤ 57 ∧ 0 = '0'.toNat - 48) ∧ (48 ≤ '9'.toNat ∧ '9'.toNat ≤ 57 ∧ 9 = '9'.toNat - 48) ∧
    (97 ≤ 'a'.toNat ∧ 'a'.toNat ≤ 102 ∧ 10 = 'a'.toNat - 97 + 10) ∧
    (97 ≤ 'f'.toNat ∧ 'f'.toNat ≤ 102 ∧ 15 = 'f'.toNat - 97 + 10) ∧
    (∀ c ∈ ['/', ':', '`', 'g', 'A', 'F'], ¬ (48 ≤ c.toNat ∧ c.toNat ≤ 57) ∧ ¬ (97 ≤ c.toNat ∧ c.toNat ≤ 102)) ∧
    'f' ∈ hexTextOf 0xF :=
  ⟨by decide, by decide, by decide, by decide, by simp, by decide⟩
/-- EncodeIsInjectiveWithTheLawfulWordsAsImage. -/
theorem witness_image : Answers (.encode 1) State.reset (.stream (encodeStream 1)) :=
  ⟨_, execEncode_eq 1 State.reset, rfl⟩
/-- EncodeIsItsStagesInOrder. -/
theorem witness_stages : Answers (.dataField 1) State.reset (.dataField 3)
    ∧ Answers (.columnParity 3) State.reset (.columnParity 1)
    ∧ Answers (.streamAssemble 3 1) State.reset (.assembled 0xFF80000000000062) :=
  ⟨⟨_, execDataField_eq 1 State.reset, by decide⟩, ⟨_, execColumnParity_eq 3 State.reset, by decide⟩,
    ⟨_, execStreamAssemble_eq 3 1 State.reset, by decide⟩⟩
/-- ValidateResult: both clauses, at the boundary value. -/
theorem witness_validate :
    ("4294967295".toList ≠ [] ∧ (∀ c ∈ "4294967295".toList, 48 ≤ c.toNat ∧ c.toNat ≤ 57) ∧
      Nat.ofDigits 10 ("4294967295".toList.reverse.map fun c => c.toNat - 48) ≤ 4294967295) ∧
    ¬ ("4294967296".toList ≠ [] ∧ (∀ c ∈ "4294967296".toList, 48 ≤ c.toNat ∧ c.toNat ≤ 57) ∧
      Nat.ofDigits 10 ("4294967296".toList.reverse.map fun c => c.toNat - 48) ≤ 4294967295) :=
  ⟨⟨by decide, by simp, by decide⟩, fun h => absurd h.2.2 (by decide)⟩
/-- LeadingZerosDoNotMatter. -/
theorem witness_leadingZeros : "7".toList ≠ [] ∧ List.replicate 2 '0' ++ "7".toList = "007".toList := by decide
/-- DecimalTextValidatesToItsValue: both clauses, at the boundary value. -/
theorem witness_decimalText : (4294967295 : Nat) < 2 ^ 32 ∧ 2 ^ 32 ≤ (4294967296 : Nat) := by decide
/-- ConvertOfAValidRequest. -/
theorem witness_convert_valid : ∃ h e w, Answers (.validate ['1']) State.reset (.cardId 1)
    ∧ Answers (.hexText 1) State.reset (.hexText h) ∧ Answers (.encode 1) State.reset (.stream w)
    ∧ Answers (.format w) State.reset (.display e) :=
  ⟨_, _, _, ⟨_, execValidate_valid (x := ['1']) (u := 1) (by decide) State.reset, rfl⟩,
    ⟨_, execHexText_eq 1 State.reset, rfl⟩, ⟨_, execEncode_eq 1 State.reset, rfl⟩,
    ⟨_, execFormat_eq _ State.reset, rfl⟩⟩
/-- ConvertOfAnInvalidRequest. -/
theorem witness_convert_invalid : Answers (.validate []) State.reset .invalidUid :=
  ⟨_, execValidate_invalid (x := []) (by decide) State.reset, rfl⟩
/-- WireActionsChangeTheInputPortOnly: a witness for each clause. -/
theorem witness_wire : (driven []).pending = [] ∧ (driven [.drive none]).pending = [.drive none]
    ∧ ({ State.reset with pending := [.hold 5] } : State).stability = .held 0
    ∧ (driven [.hold 5]).stability = .settled ∧ (driven [.settle]).pending = [.settle] := by decide
/-- SampleCompletesOnceTheInputWasHeld. -/
theorem witness_sample : (driven [.drive (some 2), .hold 5, .sample]).pending = [.drive (some 2), .hold 5, .sample]
    ∧ (driven [.drive (some 2), .hold 5, .sample]).uidI ≠ some 2 := by decide
/-- EncodeIsDriveWaitSample. -/
theorem witness_drive : (driven [.drive (some 2), .settle, .sample]).pending = [.drive (some 2), .settle, .sample] := by
  decide
/-- SettledOutputStaysWhileTheInputDoes. -/
theorem witness_settled : (driven [.hold 5]).uidI = some 1 ∧ (driven [.hold 5]).stability.isSettled = true
    ∧ ∃ t, step (driven [.hold 5]) = .next t ∧ t.uidI = some 1 :=
  ⟨rfl, rfl, _, step_cons (a := .hold 5) (rest := []) rfl, rfl⟩
/-- SamplingTwiceGivesTheSame. -/
theorem witness_twice : (driven [.sample, .sample]).uidI = some 1
    ∧ (driven [.sample, .sample]).stability.isSettled = true
    ∧ (driven [.sample, .sample]).pending = [.sample, .sample] := by decide
/-- EachTransactionsResultIsItsOwn. -/
theorem witness_transactions :
    (∀ i ∈ [Instr.encode 1, .rowParity 3], i.wellFormed = true) ∧
    (driven ([Instr.encode 1, .rowParity 3].map fun i => HostAction.launch (encode i))).pending
      = [Instr.encode 1, .rowParity 3].map (fun i => HostAction.launch (encode i)) ++ [] := by decide
/-- StepKeepsObservationsLawful. -/
theorem witness_inv : (driven [.sample]).Inv ∧ ∃ t, step (driven [.sample]) = .next t :=
  ⟨fun _ h => by simp [driven, State.reset] at h, _, step_sample_of_settled (u := 1) (rest := []) rfl rfl rfl⟩

end Sys2Proof.Tests
end

section
/-! What `par` computes (00_scope.md R11), by recursion along the list and as the parity of the number of `1` bits. -/

namespace Sys2Proof.Machine

@[simp] theorem par_nil : par [] = false := rfl

@[simp] theorem par_cons (b : Bool) (bs : List Bool) : par (b :: bs) = (b ^^ par bs) := rfl

theorem par_eq_true_iff (bs : List Bool) : par bs = true ↔ bs.count true % 2 = 1 := by
  induction bs with
  | nil => simp
  | cons b bs ih =>
    cases b with
    | false => simpa using ih
    | true =>
      have par_flips : par (true :: bs) = true ↔ ¬ par bs = true := by simp
      rw [par_flips, ih, List.count_cons_self]
      omega

theorem par_eq_false_iff (bs : List Bool) : par bs = false ↔ bs.count true % 2 = 0 := by
  rw [← Bool.not_eq_true, par_eq_true_iff, Nat.mod_two_not_eq_one]

/-- A sequence with its parity bit after it holds an even number of `1` bits. -/
theorem count_append_par_even (bs : List Bool) : (bs ++ [par bs]).count true % 2 = 0 := by
  rw [List.count_append, List.count_singleton]
  cases h : par bs with
  | false => simpa using (par_eq_false_iff bs).1 h
  | true =>
    have odd := (par_eq_true_iff bs).1 h
    simp only [beq_self_eq_true, if_true]
    omega

/-- Settles O12: along the list, each `1` bit flips both `par` and the parity of the count. -/
theorem parIsTheParityOfTheCount : Obligations.ParIsTheParityOfTheCount :=
  fun bs => ⟨par_eq_true_iff bs, count_append_par_even bs⟩

end Sys2Proof.Machine
end

section
/-! What the host gets back from CORE and from the stages ENCODE is made of: exactly one observation each, the same in
every state. -/

namespace Sys2Proof.Machine

/-- An instruction that completes with one observation answers with that observation and no other. -/
theorem answers_iff_of_exec {i : Instr} {s t : State} {a o : Observation} (hexec : exec i s = .next t)
    (hobserved : t.observed = a :: s.observed) : Answers i s o ↔ o = a := by
  constructor
  · rintro ⟨t', hexec', hobserved'⟩
    obtain rfl : t = t' := Host.Outcome.next.inj (hexec.symm.trans hexec')
    exact (List.cons.inj (hobserved'.symm.trans hobserved)).1
  · rintro rfl
    exact ⟨t, hexec, hobserved⟩

theorem answers_encode_iff (u : CardId) (s : State) (o : Observation) :
    Answers (.encode u) s o ↔ o = .stream (encodeStream u) :=
  answers_iff_of_exec (execEncode_eq u s) rfl

theorem answers_dataField_iff (u : CardId) (s : State) (o : Observation) :
    Answers (.dataField u) s o ↔ o = .dataField (dataFieldOf u) :=
  answers_iff_of_exec (execDataField_eq u s) rfl

theorem answers_columnParity_iff (d : DataField) (s : State) (o : Observation) :
    Answers (.columnParity d) s o ↔ o = .columnParity (columnParityOf d) :=
  answers_iff_of_exec (execColumnParity_eq d s) rfl

theorem answers_streamAssemble_iff (d : DataField) (c : ColumnParity) (s : State) (o : Observation) :
    Answers (.streamAssemble d c) s o ↔ o = .assembled (assemble d c) :=
  answers_iff_of_exec (execStreamAssemble_eq d c s) rfl

/-- The stream is the assembler's output on the data field and its column parity (44_stream_encode.md R162). -/
theorem encodeStream_eq_assemble (u : CardId) :
    encodeStream u = assemble (dataFieldOf u) (columnParityOf (dataFieldOf u)) := rfl

/-- Settles O28: each stage has one answer, the value its function gives on its operands, and ENCODE's answer is these
functions composed. -/
theorem encodeIsItsStagesInOrder : Obligations.EncodeIsItsStagesInOrder := by
  intro u s₁ s₂ s₃ s d c w hd hc hw
  obtain rfl := Observation.dataField.inj ((answers_dataField_iff u s₁ _).1 hd)
  obtain rfl := Observation.columnParity.inj ((answers_columnParity_iff _ s₂ _).1 hc)
  obtain rfl := Observation.assembled.inj ((answers_streamAssemble_iff _ _ s₃ _).1 hw)
  rw [answers_encode_iff, encodeStream_eq_assemble]

end Sys2Proof.Machine
end

section
/-! The decoder reads back the launch of every well-formed instruction: each operand is put on its own input at that
input's width, and the wires give it back. -/

namespace Sys2Proof

/-- Wires that carry `v` decode to the instruction made from `v`. -/
theorem map_wiresOf_toNat {k : Nat} (v : BitVec k) (mk : BitVec k → Instr) :
    (wiresOf k k v.toNat).map mk = .ok (mk v) := by
  rw [wiresOf_toNat]
  rfl

/-- The expander's text form takes every character of its domain (45_host_side.md R199). -/
theorem decode_hexChar {c : Char} (h : isLowerHexChar c = true) :
    decode ⟨.nibbleExpander, .text [c]⟩ = .ok (.nibbleExpand (.hexChar c)) :=
  if_pos h

theorem decode_encode {i : Instr} (h : i.wellFormed = true) : decode (encode i) = .ok i := by
  cases i with
  | encode u => exact map_wiresOf_toNat u .encode
  | hexSlice u => exact map_wiresOf_toNat u .hexSlice
  | rowParity n => exact map_wiresOf_toNat n .rowParity
  | nibbleExpand x =>
    cases x with
    | nibble n => exact map_wiresOf_toNat n fun n => .nibbleExpand (.nibble n)
    | hexChar c => exact decode_hexChar h
  | dataField u => exact map_wiresOf_toNat u .dataField
  | columnParity d => exact map_wiresOf_toNat d .columnParity
  | streamAssemble d c =>
    obtain ⟨field, parity⟩ := streamOperand_fields d c
    calc decode (encode (.streamAssemble d c))
      _ = .ok (.streamAssemble ((d ++ c).extractLsb' 4 50) ((d ++ c).extractLsb' 0 4)) :=
        map_wiresOf_toNat (d ++ c) fun v => .streamAssemble (v.extractLsb' 4 50) (v.extractLsb' 0 4)
      _ = .ok (.streamAssemble d c) := by rw [field, parity]
  | validate t => rfl
  | hexText u => exact map_wiresOf_toNat u .hexText
  | format w => exact map_wiresOf_toNat w .format
  | convert t => rfl

end Sys2Proof
end

section
/-! What one transaction does, for every instruction at once: it gives back a result that depends on the instruction
alone, and touches CORE's ports only where it has CORE encode an identifier. -/

namespace Sys2Proof.Machine

/-- The identifier CORE is given in the transaction, for the two instructions that use CORE's ports. -/
def coreOperand : Instr → Option CardId
  | .encode u => some u
  | .convert t => validate t
  | _ => none

/-- What the host gets back from a well-formed instruction, with no state to depend on (10_state.md R27). -/
def resultOf : Instr → Observation
  | .encode u => .stream (encodeStream u)
  | .hexSlice u => .nibbles (nibbles u)
  | .rowParity n => .rowParity (rowParityOf n)
  | .nibbleExpand (.nibble n) => .parityNibble (expand n)
  | .nibbleExpand (.hexChar c) => .parityText (bitText (expand ((hexCharValue c).getD 0)))
  | .dataField u => .dataField (dataFieldOf u)
  | .columnParity d => .columnParity (columnParityOf d)
  | .streamAssemble d c => .assembled (assemble d c)
  | .validate t => (validate t).elim .invalidUid .cardId
  | .hexText u => .hexText (hexTextOf u)
  | .format w => .display (formatStream w)
  | .convert t =>
    (validate t).elim .invalidUid fun u => .response ⟨t, hexTextOf u, formatStream (encodeStream u)⟩

theorem resultOf_hexChar {c : Char} {n : Nibble} (h : hexCharValue c = some n) :
    resultOf (.nibbleExpand (.hexChar c)) = .parityText (bitText (expand n)) := by
  simp [resultOf, h]

theorem resultOf_validate_valid {x : Text} {u : CardId} (h : validate x = some u) :
    resultOf (.validate x) = .cardId u := by
  simp [resultOf, h]

theorem resultOf_validate_invalid {x : Text} (h : validate x = none) : resultOf (.validate x) = .invalidUid := by
  simp [resultOf, h]

theorem resultOf_convert_valid {x : Text} {u : CardId} (h : validate x = some u) :
    resultOf (.convert x) = .response ⟨x, hexTextOf u, formatStream (encodeStream u)⟩ := by
  simp [resultOf, h]

theorem resultOf_convert_invalid {x : Text} (h : validate x = none) : resultOf (.convert x) = .invalidUid := by
  simp [resultOf, h]

/-- The state once `i` has run: an identifier given to CORE stays on its input, settled (DESIGN CHOICE:
notes/assumptions/20.md), and the host has the result. -/
def State.after (s : State) (i : Instr) : State :=
  { s with
    uidI := (coreOperand i).or s.uidI
    stability := if (coreOperand i).isSome then .settled else s.stability
    observed := resultOf i :: s.observed }

section
variable (s : State) (i : Instr)

@[simp] theorem State.after_pending : (s.after i).pending = s.pending := rfl
@[simp] theorem State.after_uidI : (s.after i).uidI = (coreOperand i).or s.uidI := rfl
@[simp] theorem State.after_stability :
    (s.after i).stability = if (coreOperand i).isSome then .settled else s.stability := rfl
@[simp] theorem State.after_observed : (s.after i).observed = resultOf i :: s.observed := rfl
@[simp] theorem State.after_instant : (s.after i).instant = s.instant := rfl

end

/-- An instruction that leaves CORE alone only adds its result to the host's record. -/
theorem State.observe_eq_after {i : Instr} {o : Observation} (hcore : coreOperand i = none) (hresult : resultOf i = o)
    (s : State) : s.observe o = s.after i := by
  simp [State.after, State.observe, hcore, hresult]

/-- An instruction that gives CORE an identifier leaves it on the input, settled. -/
theorem State.transacted_eq_after {i : Instr} {u : CardId} {o : Observation} (hcore : coreOperand i = some u)
    (hresult : resultOf i = o) (s : State) :
    { s with uidI := some u, stability := .settled, observed := o :: s.observed } = s.after i := by
  simp [State.after, hcore, hresult]

/-- No transaction unsettles the input: one that changes the level waits T_PD (45_host_side.md R197). -/
theorem State.isSettled_after {s : State} (h : s.stability.isSettled = true) (i : Instr) :
    (s.after i).stability.isSettled = true := by
  rw [State.after_stability]
  split
  · exact Stability.isSettled_settled
  · exact h

/-- Every well-formed instruction runs to `State.after`, whatever the state. -/
theorem exec_of_wellFormed {i : Instr} (h : i.wellFormed = true) (s : State) : exec i s = .next (s.after i) := by
  cases i with
  | encode u => exact execEncode_eq u s
  | hexSlice u => exact execHexSlice_eq u s
  | rowParity n => exact execRowParity_eq n s
  | nibbleExpand x =>
    cases x with
    | nibble n => exact execNibbleExpand_nibble n s
    | hexChar c =>
      obtain ⟨n, hn⟩ := Option.isSome_iff_exists.1 ((isSome_hexCharValue c).trans h)
      rw [← State.observe_eq_after rfl (resultOf_hexChar hn)]
      exact execNibbleExpand_hexChar hn s
  | dataField u => exact execDataField_eq u s
  | columnParity d => exact execColumnParity_eq d s
  | streamAssemble d c => exact execStreamAssemble_eq d c s
  | validate x =>
    cases hx : validate x with
    | none =>
      rw [← State.observe_eq_after rfl (resultOf_validate_invalid hx)]
      exact execValidate_invalid hx s
    | some u =>
      rw [← State.observe_eq_after rfl (resultOf_validate_valid hx)]
      exact execValidate_valid hx s
  | hexText u => exact execHexText_eq u s
  | format w => exact execFormat_eq w s
  | convert x =>
    cases hx : validate x with
    | none =>
      rw [← State.observe_eq_after (i := .convert x) hx (resultOf_convert_invalid hx)]
      exact execConvert_invalid hx s
    | some u =>
      rw [← State.transacted_eq_after (i := .convert x) hx (resultOf_convert_valid hx)]
      exact execConvert_valid hx s

/-- The one ill-formed instruction, the expander's text form outside its domain, is refused. -/
theorem exec_of_not_wellFormed {i : Instr} (h : i.wellFormed = false) (s : State) :
    ∃ c, exec i s = .refused (.notHexDigit c) := by
  cases i with
  | nibbleExpand x =>
    cases x with
    | nibble n => cases h
    | hexChar c =>
      have outside : hexCharValue c = none := by simpa using (isSome_hexCharValue c).trans h
      exact ⟨c, execNibbleExpand_notHex outside s⟩
  | _ => cases h

/-- Everything an instruction can do when it completes. -/
theorem exec_next {i : Instr} {s t : State} (h : exec i s = .next t) : i.wellFormed = true ∧ t = s.after i := by
  cases hwf : i.wellFormed with
  | true => exact ⟨rfl, Host.Outcome.next.inj (h.symm.trans (exec_of_wellFormed hwf s))⟩
  | false =>
    obtain ⟨c, refused⟩ := exec_of_not_wellFormed hwf s
    cases h.symm.trans refused

/-- Settles O9: the next state is `State.after`, which adds the result and frames the queue and the counter. -/
theorem everyInstructionCompletes : Obligations.EveryInstructionCompletes :=
  fun i s h => ⟨s.after i, resultOf i, exec_of_wellFormed h s,
    s.after_observed i, s.after_pending i, s.after_instant i⟩

end Sys2Proof.Machine
end

section
/-! What a step does: it performs the host's next action one instant later, and a launch runs the instruction it decodes
to. -/

namespace Sys2Proof.Machine

theorem perform_launch_of_decode {l : Launch} {i : Instr} (h : decode l = .ok i) (s : State) :
    perform (.launch l) s = exec i s := by
  simp [perform, h]

theorem perform_launch_of_decode_error {l : Launch} {e : DecodeError} (h : decode l = .error e) (s : State) :
    perform (.launch l) s = .refused (.undecodable e) := by
  simp [perform, h]

/-- A launch that completes stood for an instruction, and ran it. -/
theorem perform_launch_next {l : Launch} {s t : State} (h : perform (.launch l) s = .next t) :
    ∃ i, decode l = .ok i ∧ t = s.after i := by
  cases hl : decode l with
  | ok i => exact ⟨i, rfl, (exec_next ((perform_launch_of_decode hl s).symm.trans h)).2⟩
  | error e => cases (perform_launch_of_decode_error hl s).symm.trans h

/-- Everything a step can do when it completes: nothing was asked for, or the next action was performed. -/
theorem step_next {s t : State} (h : step s = .next t) :
    (s.pending = [] ∧ t = { s with instant := s.instant + 1 }) ∨
    ∃ a rest, s.pending = a :: rest ∧
      perform a { s with pending := rest, instant := s.instant + 1 } = .next t := by
  cases hp : s.pending with
  | nil => exact .inl ⟨rfl, hp ▸ (Host.Outcome.next.inj ((step_nil hp).symm.trans h)).symm⟩
  | cons a rest => exact .inr ⟨a, rest, rfl, (step_cons hp).symm.trans h⟩

/-- Settles O6: the queue's head is performed at the ticked state, and a launch runs what it decodes to. -/
theorem stepRunsTheDecodedInstruction : Obligations.StepRunsTheDecodedInstruction :=
  fun _ _ _ _ hp hl => (step_cons hp).trans (perform_launch_of_decode hl _)

/-- The launch of a well-formed instruction completes in one step. -/
theorem step_launch_encode {s : State} {i : Instr} {rest : List HostAction} (hwf : i.wellFormed = true)
    (hp : s.pending = .launch (encode i) :: rest) :
    step s = .next (State.after { s with pending := rest, instant := s.instant + 1 } i) :=
  (stepRunsTheDecodedInstruction s _ rest i hp (decode_encode hwf)).trans (exec_of_wellFormed hwf _)

end Sys2Proof.Machine
end

section
/-! Transactions and the port over several steps: independence of history, ENCODE as three actions, and the settled
output. -/

namespace Sys2Proof.Machine

/-- A list of well-formed transactions runs to its end, and each adds its own result to the host's record. -/
theorem runSteps_transactions (is : List Instr) (rest : List HostAction) (s : State)
    (hwf : ∀ i ∈ is, i.wellFormed = true)
    (hp : s.pending = is.map (fun i => HostAction.launch (encode i)) ++ rest) :
    ∃ t, runSteps is.length s = .next t ∧ t.pending = rest ∧
      t.observed = (is.map resultOf).reverse ++ s.observed := by
  induction is generalizing s with
  | nil => exact ⟨s, rfl, hp, rfl⟩
  | cons i is ih =>
    obtain ⟨hi, his⟩ := List.forall_mem_cons.1 hwf
    have first := step_launch_encode hi hp
    obtain ⟨t, run, pending, observed⟩ := ih _ his (State.after_pending
      { s with pending := is.map (fun i => HostAction.launch (encode i)) ++ rest, instant := s.instant + 1 } i)
    refine ⟨t, (runSteps_of_next first is.length).trans run, pending, ?_⟩
    simpa using observed

/-- Settles O42: `resultOf` is the function, by induction over the list of transactions. -/
theorem eachTransactionsResultIsItsOwn : Obligations.EachTransactionsResultIsItsOwn :=
  ⟨resultOf, fun _ => rfl, runSteps_transactions⟩

/-- A run of `k` steps that completes is followed by a run from where it ended. -/
theorem runSteps_add {s t : State} {k : Nat} (h : runSteps k s = .next t) (m : Nat) :
    runSteps (k + m) s = runSteps m t := by
  induction k generalizing s with
  | zero =>
    obtain rfl : s = t := Host.Outcome.next.inj h
    rw [Nat.zero_add]
  | succ k ih =>
    cases first : step s with
    | next s' =>
      rw [runSteps_of_next first] at h
      rw [Nat.succ_add, runSteps_of_next first, ih h]
    | fault f => cases f
    | refused r => cases (runSteps_of_refused first k).symm.trans h

/-- Driving a level and then waiting T_PD, as two steps. -/
theorem runSteps_drive_settle {s : State} {level : Option CardId} {rest : List HostAction}
    (hp : s.pending = .drive level :: .settle :: rest) :
    runSteps 2 s = .next
      { s with pending := rest, instant := s.instant + 2, uidI := level, stability := .settled } := by
  have drive := step_cons hp
  have settle := step_cons (s := State.drive { s with pending := .settle :: rest, instant := s.instant + 1 } level)
    (State.drive_pending _ level)
  rw [runSteps_of_next drive, runSteps_of_next settle, runSteps_zero]
  simp [State.settle]

/-- Settles O39: both ways end with the level on the input, settled, and its encoding in the host's record. -/
theorem encodeIsDriveWaitSample : Obligations.EncodeIsDriveWaitSample := by
  rintro s _ u rest hp rfl
  refine ⟨{ s with pending := rest, instant := s.instant + 3, uidI := some u, stability := .settled,
                   observed := .stream (encodeStream u) :: s.observed }, ?_, ?_, rfl⟩
  · have sampled := step_sample_of_settled (u := u) (rest := rest)
      (s := { s with pending := .sample :: rest, instant := s.instant + 2, uidI := some u, stability := .settled })
      rfl rfl rfl
    exact (runSteps_add (runSteps_drive_settle hp) 1).trans (runSteps_of_next sampled 0)
  · exact step_launch_encode (i := .encode u) rfl rfl

/-- An action that leaves the level on the input leaves it settled: only a change of level starts the settling time
again (70_reset_and_hazards.md R263). -/
theorem perform_keeps_settled {a : HostAction} {s t : State} (hs : s.stability.isSettled = true)
    (h : perform a s = .next t) (hlevel : t.uidI = s.uidI) : t.stability.isSettled = true := by
  cases a with
  | launch l =>
    obtain ⟨i, -, rfl⟩ := perform_launch_next h
    exact State.isSettled_after hs i
  | drive level =>
    obtain rfl : s.drive level = t := Host.Outcome.next.inj h
    have same : s.uidI = level := hlevel.symm.trans (State.drive_uidI s level)
    exact (State.drive_stability_of_same s same).symm ▸ hs
  | hold n =>
    obtain rfl : s.hold n = t := Host.Outcome.next.inj h
    exact Stability.isSettled_hold hs n
  | settle =>
    obtain rfl : s.settle = t := Host.Outcome.next.inj h
    exact Stability.isSettled_settled
  | sample =>
    obtain ⟨_, -, -, rfl⟩ := State.sample_next h
    exact hs

theorem step_keeps_settled {s t : State} (hs : s.stability.isSettled = true) (h : step s = .next t)
    (hlevel : t.uidI = s.uidI) : t.stability.isSettled = true := by
  obtain ⟨-, rfl⟩ | ⟨a, rest, -, performed⟩ := step_next h
  · exact hs
  · exact perform_keeps_settled (s := { s with pending := rest, instant := s.instant + 1 }) hs performed hlevel

/-- Settles O40: the step keeps the input settled, and a settled output is the encoding of its input. -/
theorem settledOutputStaysWhileTheInputDoes : Obligations.SettledOutputStaysWhileTheInputDoes := by
  intro s t u hu hs hstep ht
  have settled := step_keeps_settled hs hstep (ht.trans hu.symm)
  exact ⟨settled, State.streamO_of_settled ht settled⟩

end Sys2Proof.Machine
end

section
/-! Reading the output twice. -/

namespace Sys2Proof.Machine

/-- Settles O41: the first sample leaves the input driven and settled, so the second is answered as the first was. -/
theorem samplingTwiceGivesTheSame : Obligations.SamplingTwiceGivesTheSame := by
  intro s u rest hu hs hp
  have first := step_sample_of_settled hp hu hs
  have second := step_sample_of_settled (rest := rest)
    (s := { s with pending := .sample :: rest, instant := s.instant + 1,
                   observed := .stream (encodeStream u) :: s.observed })
    rfl hu hs
  exact (runSteps_of_next first 1).trans (runSteps_of_next second 0)

end Sys2Proof.Machine
end

section
/-! The encoder undoes the decoder: a launch that decodes carries its operand whole, so it is the launch of the
instruction read from it. -/

namespace Sys2Proof

/-- Settles O1: the wires of each input give the operand back. -/
theorem decodeOfEncodeIsTheInstruction : Obligations.DecodeOfEncodeIsTheInstruction :=
  fun _ h => decode_encode h

/-- An input whose instructions are encoded as the wires they are read from loses no bit of what it reads. -/
theorem encode_of_map_wiresOf_ok {k nbits w : Nat} {mk : BitVec k → Instr} {b : Block} {i : Instr}
    (hmk : ∀ v, (mk v).wellFormed = true ∧ encode (mk v) = ⟨b, payloadOf v⟩)
    (h : (wiresOf k nbits w).map mk = .ok i) : i.wellFormed = true ∧ encode i = ⟨b, .bits nbits w⟩ := by
  cases hv : wiresOf k nbits w with
  | error e =>
    rw [hv] at h
    cases h
  | ok v =>
    rw [hv] at h
    cases h
    rw [← wiresOf_ok hv]
    exact hmk v

/-- STREAM_ASSEMBLE is put on the 54 wires its operands are slices of. -/
theorem encode_streamAssemble_slices (v : BitVec 54) :
    encode (.streamAssemble (v.extractLsb' 4 50) (v.extractLsb' 0 4)) = ⟨.streamAssembler, payloadOf v⟩ := by
  rw [encode, streamOperand_join]

theorem encode_of_decodeBits {b : Block} {nbits w : Nat} {i : Instr} (h : decodeBits b nbits w = .ok i) :
    i.wellFormed = true ∧ encode i = ⟨b, .bits nbits w⟩ := by
  cases b with
  | validator => cases h
  | converter => cases h
  | streamAssembler => exact encode_of_map_wiresOf_ok (fun v => ⟨rfl, encode_streamAssemble_slices v⟩) h
  | _ => exact encode_of_map_wiresOf_ok (fun _ => ⟨rfl, rfl⟩) h

/-- The expander's text form reads one character of its domain and nothing else (45_host_side.md R199). -/
theorem decodeText_nibbleExpander_ok {t : Text} {i : Instr} (h : decodeText .nibbleExpander t = .ok i) :
    ∃ c, t = [c] ∧ isLowerHexChar c = true ∧ i = .nibbleExpand (.hexChar c) := by
  simp only [decodeText] at h
  split at h
  · next c =>
    split at h
    · next hex => exact ⟨c, rfl, hex, (Except.ok.inj h).symm⟩
    · cases h
  · cases h

theorem encode_of_decodeText {b : Block} {t : Text} {i : Instr} (h : decodeText b t = .ok i) :
    i.wellFormed = true ∧ encode i = ⟨b, .text t⟩ := by
  cases b with
  | nibbleExpander =>
    obtain ⟨c, rfl, hex, rfl⟩ := decodeText_nibbleExpander_ok h
    exact ⟨hex, rfl⟩
  | validator => cases h; exact ⟨rfl, rfl⟩
  | converter => cases h; exact ⟨rfl, rfl⟩
  | _ => cases h

/-- Settles O2, by what the payload is: wires are read whole, text is kept as it is, and an undefined level never
decodes. -/
theorem encodeOfDecodeIsTheLaunch : Obligations.EncodeOfDecodeIsTheLaunch := by
  rintro ⟨b, payload⟩ i h
  cases payload with
  | bits nbits w => exact encode_of_decodeBits h
  | text t => exact encode_of_decodeText h
  | undefinedLevel => cases h

end Sys2Proof
end

section
/-! What a bare word on CORE's port stands for (30_encoding.md R65, R67), and the step that runs it. -/

namespace Sys2Proof

/-- A 32-bit word on the port is the launch of its own ENCODE. -/
theorem portLaunch_eq_encode {w : Nat} (h : w < 2 ^ 32) : portLaunch 32 w = encode (.encode (BitVec.ofNat 32 w)) :=
  congrArg (Launch.mk .core) (wiresOf_ok (wiresOf_of_lt h)).symm

theorem decode_portLaunch_of_width {nbits : Nat} (h : nbits ≠ 32) (w : Nat) :
    decode (portLaunch nbits w) = .error (.wrongWidth 32 nbits) :=
  congrArg (Except.map Instr.encode) (wiresOf_of_width h w)

/-- Settles O3: the word is the launch of its ENCODE, which decodes to it. -/
theorem everyPortWordIsEncode : Obligations.EveryPortWordIsEncode := by
  intro w hw
  rw [decodeTableWord, portLaunch_eq_encode hw, decode_encode rfl]
  rfl

/-- Settles O5: each word is evaluated as it stands. -/
theorem wordsFromTheSpecDecode : Obligations.WordsFromTheSpecDecode :=
  ⟨by decide, by decide, by decide, by decide, by decide, by decide, by decide⟩

end Sys2Proof

namespace Sys2Proof.Machine

/-- Settles O4: the wire reader checks the width, and no block reads a payload with an undefined level. -/
theorem otherWidthsAndUndefinedLevelsAreRefused : Obligations.OtherWidthsAndUndefinedLevelsAreRefused := by
  constructor
  · intro nbits w hwidth
    rw [decodeTableWord, decode_portLaunch_of_width hwidth]
    rfl
  · intro b s rest hp
    exact (step_cons hp).trans (perform_launch_of_decode_error rfl _)

/-- Settles O7: the word is the launch of its ENCODE, which completes in one step. -/
theorem noInputWordIsRefused : Obligations.NoInputWordIsRefused := by
  intro s w hw
  have queued : (s.withFetchWord 32 w).pending = .launch (encode (.encode (BitVec.ofNat 32 w))) :: s.pending := by
    rw [State.withFetchWord, State.enqueueFirst_pending, portLaunch_eq_encode hw]
  exact step_launch_encode rfl queued

end Sys2Proof.Machine
end

section
/-! The instructions that leave CORE's ports alone (DESIGN CHOICE: notes/assumptions/3.md). -/

namespace Sys2Proof.Machine

theorem coreOperand_eq_none {i : Instr} (hencode : ∀ u, i ≠ .encode u) (hconvert : ∀ x, i ≠ .convert x) :
    coreOperand i = none := by
  cases i with
  | encode u => exact absurd rfl (hencode u)
  | convert x => exact absurd rfl (hconvert x)
  | _ => rfl

/-- The output depends on the input's level, its stability and the instant alone (10_state.md R21). -/
theorem State.streamO_congr {s t : State} (huid : t.uidI = s.uidI) (hstable : t.stability = s.stability)
    (hinstant : t.instant = s.instant) : t.streamO = s.streamO := by
  simp only [State.streamO, huid, hstable, hinstant]

/-- Settles O10: an instruction that gives CORE no identifier leaves the input as it was, and with it the output. -/
theorem onlyEncodeAndConvertTouchThePorts : Obligations.OnlyEncodeAndConvertTouchThePorts := by
  intro i s t hexec hencode hconvert
  obtain ⟨-, rfl⟩ := exec_next hexec
  have idle : coreOperand i = none := coreOperand_eq_none hencode hconvert
  have uid : (s.after i).uidI = s.uidI := by rw [State.after_uidI, idle, Option.none_or]
  have stable : (s.after i).stability = s.stability := by simp [idle]
  exact ⟨uid, stable, State.streamO_congr uid stable (s.after_instant i)⟩

end Sys2Proof.Machine
end

section
/-! The fields of the data field and of the stream, bit by bit (30_encoding.md R63, R64). Positions count from the most
significant bit, as `getMsbD` does. -/

namespace Sys2Proof.Machine

/-- Rows 0 and 1 are zero (42_data_field.md R123). -/
theorem dataFieldOf_getMsbD_leading (u : CardId) {p : Nat} (hp : p < 10) : (dataFieldOf u).getMsbD p = false := by
  rw [BitVec.getMsbD_eq_getLsbD, BitVec.getLsbD_eq_getElem (by omega), dataFieldOf_getElem,
    dif_neg (by omega), Bool.and_false]

/-- Position `5 * (k + 2) + j` is bit `4 - j` of digit `k`'s row. -/
theorem dataFieldOf_getMsbD_row (u : CardId) (k : Fin 8) {j : Nat} (hj : j < 5) :
    (dataFieldOf u).getMsbD (5 * (k + 2) + j) = (expand (nibble u k))[4 - j] := by
  have position : decide (5 * (k.val + 2) + j < 50) = true := decide_eq_true (by omega)
  have row : 7 - (50 - 1 - (5 * (k.val + 2) + j)) / 5 = k := by omega
  have column : (50 - 1 - (5 * (k.val + 2) + j)) % 5 = 4 - j := by omega
  rw [BitVec.getMsbD_eq_getLsbD, position, Bool.true_and, BitVec.getLsbD_eq_getElem (by omega), dataFieldOf_getElem,
    dif_pos (by omega)]
  simp only [row, column, Fin.eta]

/-- The first four bits of digit `k`'s row are the digit's. -/
theorem dataFieldOf_getMsbD_digit (u : CardId) (k : Fin 8) {j : Nat} (hj : j < 4) :
    (dataFieldOf u).getMsbD (5 * (k + 2) + j) = u.getLsbD (31 - 4 * k - j) := by
  rw [dataFieldOf_getMsbD_row u k (by omega), expand_getElem, if_neg (by omega),
    BitVec.getLsbD_eq_getElem (by omega), nibble_getElem u k _ (by omega)]
  congr 1
  omega

/-- The last bit of digit `k`'s row is the exclusive-or of the digit's four. -/
theorem dataFieldOf_getMsbD_rowParity (u : CardId) (k : Fin 8) :
    (dataFieldOf u).getMsbD (5 * (k + 2) + 4) =
      (u.getLsbD (31 - 4 * k) ^^ u.getLsbD (30 - 4 * k) ^^ u.getLsbD (29 - 4 * k) ^^ u.getLsbD (28 - 4 * k)) := by
  have bit3 : 28 - 4 * k.val + 3 = 31 - 4 * k := by omega
  have bit2 : 28 - 4 * k.val + 2 = 30 - 4 * k := by omega
  have bit1 : 28 - 4 * k.val + 1 = 29 - 4 * k := by omega
  rw [dataFieldOf_getMsbD_row u k (by omega), expand_getElem, if_pos rfl]
  simp only [nibble_getElem, bit3, bit2, bit1, Nat.add_zero]

/-- Column `c` of the data field: two zeros, then bit `c` of each digit in order. -/
theorem dataFieldOf_column (u : CardId) {c : Nat} (hc : c < 4) :
    (List.range 10).map (fun r => (dataFieldOf u).getMsbD (5 * r + c)) =
      false :: false :: (List.finRange 8).map fun k => u.getLsbD (31 - 4 * k - c) := by
  have rows : List.range 10 = 0 :: 1 :: (List.finRange 8).map fun k => k.val + 2 := rfl
  rw [rows, List.map_cons, List.map_cons, List.map_map, dataFieldOf_getMsbD_leading u (by omega),
    dataFieldOf_getMsbD_leading u (by omega)]
  exact congrArg (false :: false :: ·) (List.map_congr_left fun k _ => dataFieldOf_getMsbD_digit u k hc)

/-- Column parity bit `c` is the parity of bit `c` of the eight digits. -/
theorem columnParityBit_dataFieldOf (u : CardId) {c : Nat} (hc : c < 4) :
    columnParityBit (dataFieldOf u) c = par ((List.finRange 8).map fun k => u.getLsbD (31 - 4 * k - c)) := by
  rw [columnParityBit, dataFieldOf_column u hc, par_cons, par_cons, Bool.false_xor, Bool.false_xor]

theorem columnParityOf_getMsbD (d : DataField) {c : Nat} (hc : c < 4) :
    (columnParityOf d).getMsbD c = columnParityBit d c := by
  rw [BitVec.getMsbD_eq_getLsbD, BitVec.getLsbD_eq_getElem (by omega), columnParityOf_getElem, decide_eq_true hc,
    Bool.true_and]
  congr 1
  omega

section
variable (d : DataField) (cp : ColumnParity)

theorem assemble_getLsbD_header {p : Nat} (hp : p < 9) : (assemble d cp).getLsbD (63 - p) = true := by
  rw [BitVec.getLsbD_eq_getElem (by omega), assemble_getElem, if_neg (by omega), dif_neg (by omega), dif_neg (by omega)]

theorem assemble_getLsbD_dataField {p : Nat} (hp : p < 50) : (assemble d cp).getLsbD (54 - p) = d.getMsbD p := by
  rw [BitVec.getLsbD_eq_getElem (by omega), assemble_getElem, if_neg (by omega), dif_neg (by omega), dif_pos (by omega),
    BitVec.getMsbD_eq_getLsbD, decide_eq_true hp, Bool.true_and, BitVec.getLsbD_eq_getElem (by omega)]
  congr 1
  omega

theorem assemble_getLsbD_columnParity {c : Nat} (hc : c < 4) : (assemble d cp).getLsbD (4 - c) = cp.getMsbD c := by
  rw [BitVec.getLsbD_eq_getElem (by omega), assemble_getElem, if_neg (by omega), dif_pos (by omega),
    BitVec.getMsbD_eq_getLsbD, decide_eq_true hc, Bool.true_and, BitVec.getLsbD_eq_getElem (by omega)]
  congr 1
  omega

theorem assemble_getLsbD_stop : (assemble d cp).getLsbD 0 = false := by
  rw [BitVec.getLsbD_eq_getElem (by omega), assemble_getElem, if_pos rfl]

end

/-- Settles O24: each bit of the stream is a bit of its header, data field, column parity or stop bit, and the bits of
the data field are those of the identifier's digits and their row parities. -/
theorem streamLayoutBitByBit : Obligations.StreamLayoutBitByBit := by
  intro u s
  refine ⟨encodeStream u, (answers_encode_iff u s _).2 rfl,
    ?header, ?leading, ?digits, ?rowParity, ?columnParity, ?stop⟩
  all_goals rw [encodeStream_eq_assemble]
  case header => exact fun p => assemble_getLsbD_header _ _ p.isLt
  case leading =>
    intro p
    rw [assemble_getLsbD_dataField _ _ (by omega), dataFieldOf_getMsbD_leading u p.isLt]
  case digits =>
    intro k j
    rw [← dataFieldOf_getMsbD_digit u k j.isLt, ← assemble_getLsbD_dataField _ _ (by omega)]
    congr 1
    omega
  case rowParity =>
    intro k
    rw [← dataFieldOf_getMsbD_rowParity u k, ← assemble_getLsbD_dataField _ _ (by omega)]
    congr 1
    omega
  case columnParity =>
    intro c
    rw [assemble_getLsbD_columnParity _ _ c.isLt, columnParityOf_getMsbD _ c.isLt, columnParityBit_dataFieldOf u c.isLt]
    rfl
  case stop => exact assemble_getLsbD_stop _ _

end Sys2Proof.Machine
end

section
/-! The digits of the slicer (40_hex_digits.md R80), and the identifier they make up (R81). -/

namespace Sys2Proof.Machine

theorem answers_hexSlice_iff (u : CardId) (s : State) (o : Observation) :
    Answers (.hexSlice u) s o ↔ o = .nibbles (nibbles u) :=
  answers_iff_of_exec (execHexSlice_eq u s) rfl

theorem nibbles_getElem (u : CardId) (k : Fin 8) : (nibbles u)[k] = nibble u k := by
  fin_cases k <;> rfl

/-- The second form of R80: the mask keeps the low four bits, as the slice does. -/
theorem nibble_toNat (u : CardId) (k : Fin 8) :
    (nibble u k).toNat = ((u >>> (28 - 4 * k.val)) &&& 0xF#32).toNat := by
  rw [nibble, BitVec.extractLsb'_toNat, BitVec.toNat_and, BitVec.toNat_ushiftRight]
  exact (Nat.and_two_pow_sub_one_eq_mod _ 4).symm

/-- Settles O17: the host gets `nibbles u` back, whose entry `k` is the slice `nibble u k`. -/
theorem hexSliceResult : Obligations.HexSliceResult := by
  intro u s
  refine ⟨nibbles u, execHexSlice_eq u s, fun k => ?_⟩
  rw [nibbles_getElem]
  refine ⟨fun j => ?_, nibble_toNat u k⟩
  rw [BitVec.getLsbD_eq_getElem j.isLt, nibble_getElem u k j j.isLt]

/-- Adjacent slices join to one slice, so the eight join to the whole identifier. -/
theorem nibbles_append (u : CardId) :
    nibble u 0 ++ nibble u 1 ++ nibble u 2 ++ nibble u 3 ++ nibble u 4 ++ nibble u 5 ++ nibble u 6 ++ nibble u 7 = u := by
  unfold nibble
  iterate 7 rw [BitVec.extractLsb'_append_extractLsb'_eq_extractLsb']
  · exact BitVec.extractLsb'_eq_self
  all_goals rfl

/-- A concatenation as a number: the first part weighs `2 ^ n`, where `n` is the width of the second. -/
theorem toNat_append_eq_add {m n : Nat} (x : BitVec m) (y : BitVec n) :
    (x ++ y).toNat = x.toNat * 2 ^ n + y.toNat := by
  rw [BitVec.toNat_append, ← Nat.shiftLeft_add_eq_or_of_lt y.isLt, Nat.shiftLeft_eq]

theorem toNat_eq_sum_nibbles (u : CardId) :
    u.toNat = (nibble u 0).toNat * 16 ^ 7 + (nibble u 1).toNat * 16 ^ 6 + (nibble u 2).toNat * 16 ^ 5
      + (nibble u 3).toNat * 16 ^ 4 + (nibble u 4).toNat * 16 ^ 3 + (nibble u 5).toNat * 16 ^ 2
      + (nibble u 6).toNat * 16 + (nibble u 7).toNat := by
  have joined := congrArg BitVec.toNat (nibbles_append u)
  simp only [toNat_append_eq_add] at joined
  omega

/-- Settles O18: the concatenation gives the identifier back, and read as a number it is the sum. -/
theorem hexSliceIsLossless : Obligations.HexSliceIsLossless :=
  fun u s => ⟨nibbles u, (answers_hexSlice_iff u s _).2 rfl, toNat_eq_sum_nibbles u, (nibbles_append u).symm⟩

end Sys2Proof.Machine
end

section
/-! The row parity of a nibble and the ParityNibble that carries it as its last bit (41_nibble_parity.md R100, R101). -/

namespace Sys2Proof.Machine

theorem rowParityOf_eq_true_iff_popcount (n : Nibble) : rowParityOf n = true ↔ popcount n % 2 = 1 :=
  par_eq_true_iff (positions n)

/-- R100's list of the nibbles with row parity 1. -/
theorem rowParityOf_eq_true_iff_mem (n : Nibble) :
    rowParityOf n = true ↔ n.toNat ∈ [1, 2, 4, 7, 8, 11, 13, 14] := by
  revert n; decide

/-- Settles O13: the host gets `rowParityOf n` back, which is the exclusive-or of the bits and the parity of their
count. -/
theorem rowParityResult : Obligations.RowParityResult :=
  fun n s => ⟨rowParityOf n, execRowParity_eq n s, rowParityOf_eq n, rowParityOf_eq_true_iff_popcount n,
    rowParityOf_eq_true_iff_mem n⟩

theorem expand_getMsbD_digit (n : Nibble) {j : Nat} (hj : j < 4) : (expand n).getMsbD j = n.getMsbD j := by
  rw [expand, BitVec.getMsbD_append, if_neg (by omega)]

theorem expand_getMsbD_rowParity (n : Nibble) : (expand n).getMsbD 4 = rowParityOf n := by
  rw [expand, BitVec.getMsbD_append, if_pos (by omega)]
  simp

/-- R101's table. -/
theorem expand_toNat (n : Nibble) :
    some (expand n).toNat = [0x00, 0x03, 0x05, 0x06, 0x09, 0x0A, 0x0C, 0x0F,
      0x11, 0x12, 0x14, 0x17, 0x18, 0x1B, 0x1D, 0x1E][n.toNat]? := by
  revert n; decide

/-- Settles O14: the host gets `expand n` back, the nibble's bits with their row parity after them. -/
theorem nibbleExpandResult : Obligations.NibbleExpandResult :=
  fun n s => ⟨expand n, execNibbleExpand_nibble n s, fun j => expand_getMsbD_digit n j.isLt,
    (expand_getMsbD_rowParity n).trans (rowParityOf_eq n), expand_toNat n⟩

end Sys2Proof.Machine
end

section
/-! ParityNibbles are the even 5-bit patterns (41_nibble_parity.md R102, R103): a last bit makes the number of `1` bits
even exactly when it is the parity of the bits before it. -/

namespace Sys2Proof.Machine

theorem positions_append_ofBool {n : Nat} (v : BitVec n) (b : Bool) :
    positions (v ++ BitVec.ofBool b) = positions v ++ [b] := by
  have before : ∀ p ∈ List.range n, (v ++ BitVec.ofBool b).getMsbD p = v.getMsbD p := fun p hp => by
    rw [BitVec.getMsbD_append, if_neg (Nat.not_le.2 (List.mem_range.1 hp))]
  have last : (v ++ BitVec.ofBool b).getMsbD n = b := by simp [BitVec.getMsbD_append]
  rw [positions, positions, List.range_succ, List.map_append, List.map_congr_left before, List.map_singleton, last]

theorem par_append (as bs : List Bool) : par (as ++ bs) = (par as ^^ par bs) := by
  induction as with
  | nil => simp
  | cons a as ih => simp [ih]

theorem popcount_append_ofBool_even_iff {n : Nat} (v : BitVec n) (b : Bool) :
    popcount (v ++ BitVec.ofBool b) % 2 = 0 ↔ par (positions v) = b := by
  rw [popcount, positions_append_ofBool, ← par_eq_false_iff, par_append, par_cons, par_nil, Bool.xor_false,
    bne_eq_false_iff_eq]

theorem popcount_expand_even (n : Nibble) : popcount (expand n) % 2 = 0 :=
  (popcount_append_ofBool_even_iff n _).2 rfl

/-- A ParityNibble's first four bits are its nibble. -/
theorem expand_extractLsb' (n : Nibble) : (expand n).extractLsb' 1 4 = n :=
  BitVec.extractLsb'_append_eq_left

theorem expand_injective : Function.Injective expand :=
  Function.LeftInverse.injective expand_extractLsb'

theorem digit_append_lastBit (g : ParityNibble) : g.extractLsb' 1 4 ++ BitVec.ofBool (g.getLsbD 0) = g := by
  revert g; decide

/-- The ParityNibbles are the even patterns: an even one is the ParityNibble of its first four bits. -/
theorem exists_eq_expand_iff (g : ParityNibble) : (∃ n, g = expand n) ↔ popcount g % 2 = 0 := by
  constructor
  · rintro ⟨n, rfl⟩
    exact popcount_expand_even n
  · intro even
    rw [← digit_append_lastBit g, popcount_append_ofBool_even_iff] at even
    exact ⟨g.extractLsb' 1 4, by rw [expand, rowParityOf, even, digit_append_lastBit]⟩

/-- Every row of a data field is a ParityNibble: rows 0 and 1 that of zero, row `k + 2` that of digit `k`. -/
theorem dataFieldOf_row (u : CardId) (r : Fin 10) : ∃ n, (dataFieldOf u).extractLsb' (45 - 5 * r) 5 = expand n := by
  by_cases leading : r.val < 2
  · refine ⟨0, BitVec.eq_of_getElem_eq fun i hi => ?_⟩
    have zero : (expand 0)[i] = false := by rw [expand_zero, BitVec.getElem_zero]
    rw [BitVec.getElem_extractLsb', BitVec.getLsbD_eq_getElem (by omega), dataFieldOf_getElem, dif_neg (by omega), zero]
  · refine ⟨nibble u ⟨r - 2, by omega⟩, BitVec.eq_of_getElem_eq fun i hi => ?_⟩
    have row : 7 - (45 - 5 * r.val + i) / 5 = r - 2 := by omega
    have column : (45 - 5 * r.val + i) % 5 = i := by omega
    rw [BitVec.getElem_extractLsb', BitVec.getLsbD_eq_getElem (by omega), dataFieldOf_getElem, dif_pos (by omega)]
    simp only [row, column]

theorem answers_nibbleExpand_iff (n : Nibble) (s : State) (o : Observation) :
    Answers (.nibbleExpand (.nibble n)) s o ↔ o = .parityNibble (expand n) :=
  answers_iff_of_exec (execNibbleExpand_nibble n s) rfl

/-- Settles O15: what comes back is `expand n`, which gives `n` back; the values of `expand` are the even patterns, and
the rows of a data field are among them. -/
theorem parityNibblesAreTheEvenPatterns : Obligations.ParityNibblesAreTheEvenPatterns := by
  intro s
  simp only [answers_nibbleExpand_iff, answers_dataField_iff, Observation.parityNibble.injEq,
    Observation.dataField.injEq]
  refine ⟨?readBack, exists_eq_expand_iff, ?rows, by decide⟩
  case readBack =>
    rintro n m _ rfl
    exact ⟨(expand_extractLsb' n).symm, fun same => expand_injective same⟩
  case rows =>
    rintro u _ r rfl
    exact (exists_eq_expand_iff _).1 (dataFieldOf_row u r)

end Sys2Proof.Machine
end

section
/-! The data field by slices, by rows and bit by bit (42_data_field.md R120, R121, R122). -/

namespace Sys2Proof.Machine

/-- Rows 0 and 1 as one slice (42_data_field.md R121). -/
theorem dataFieldOf_extractLsb'_leading (u : CardId) : (dataFieldOf u).extractLsb' 40 10 = 0 := by
  refine BitVec.eq_of_getElem_eq fun i hi => ?_
  rw [BitVec.getElem_extractLsb', BitVec.getLsbD_eq_getElem (by omega), dataFieldOf_getElem, dif_neg (by omega)]
  exact (BitVec.getElem_zero ..).symm

/-- Digit `k`'s row is its ParityNibble. -/
theorem dataFieldOf_extractLsb'_digit (u : CardId) (k : Fin 8) :
    (dataFieldOf u).extractLsb' (35 - 5 * k) 5 = expand (nibble u k) := by
  refine BitVec.eq_of_getElem_eq fun i hi => ?_
  have row : 7 - (35 - 5 * k.val + i) / 5 = k := by omega
  have column : (35 - 5 * k.val + i) % 5 = i := by omega
  rw [BitVec.getElem_extractLsb', BitVec.getLsbD_eq_getElem (by omega), dataFieldOf_getElem, dif_pos (by omega)]
  simp only [row, column, Fin.eta]

/-- A row is one of the two leading rows or the row of a digit. -/
theorem row_leading_or_digit (r : Fin 10) : r.val < 2 ∨ ∃ k : Fin 8, r.val = k + 2 := by
  by_cases leading : r.val < 2
  · exact .inl leading
  · exact .inr ⟨⟨r - 2, by omega⟩, (Nat.sub_add_cancel (Nat.le_of_not_lt leading)).symm⟩

/-- Settles O19: rows 0 and 1 are zero, and row `k + 2` is digit `k` with its row parity. -/
theorem dataFieldResult : Obligations.DataFieldResult := by
  intro u s
  refine ⟨dataFieldOf u, execDataField_eq u s, dataFieldOf_extractLsb'_leading u,
    dataFieldOf_extractLsb'_digit u, fun r j => ?bits, fun r => ?rowParity⟩
  all_goals obtain leading | ⟨k, digit⟩ := row_leading_or_digit r
  case bits.inl => rw [if_pos leading, dataFieldOf_getMsbD_leading u (by omega)]
  case bits.inr => rw [if_neg (by omega), digit, dataFieldOf_getMsbD_digit u k j.isLt, Nat.add_sub_cancel]
  case rowParity.inl => rw [if_pos leading, dataFieldOf_getMsbD_leading u (by omega)]
  case rowParity.inr => rw [if_neg (by omega), digit, dataFieldOf_getMsbD_rowParity u k, Nat.add_sub_cancel]

end Sys2Proof.Machine
end

section
/-! The text pipeline (45_host_side.md R193, R199): the hex text's characters expand to the rows of the data field, as
text. -/

namespace Sys2Proof.Machine

theorem answers_hexText_iff (u : CardId) (s : State) (o : Observation) :
    Answers (.hexText u) s o ↔ o = .hexText (hexTextOf u) :=
  answers_iff_of_exec (execHexText_eq u s) rfl

theorem answers_nibbleExpand_hexChar_iff {c : Char} {n : Nibble} (h : hexCharValue c = some n) (s : State)
    (o : Observation) : Answers (.nibbleExpand (.hexChar c)) s o ↔ o = .parityText (bitText (expand n)) :=
  answers_iff_of_exec (execNibbleExpand_hexChar h s) rfl

/-- The expander's text form reads each digit character as the digit it was written for. -/
theorem hexCharValue_hexDigitChar (n : Nibble) : hexCharValue (hexDigitChar n) = some n := by
  revert n; decide

theorem positions_append {m n : Nat} (v : BitVec m) (w : BitVec n) :
    positions (v ++ w) = positions v ++ positions w := by
  have before : ∀ p ∈ List.range m, (v ++ w).getMsbD p = v.getMsbD p := fun p hp => by
    rw [BitVec.getMsbD_append, if_neg (Nat.not_le.2 (List.mem_range.1 hp))]
  have after : ∀ p ∈ List.range n, (v ++ w).getMsbD (m + p) = w.getMsbD p := fun p _ => by
    rw [BitVec.getMsbD_append, if_pos (Nat.le_add_right m p), Nat.add_sub_cancel_left]
  rw [positions, List.range_add, List.map_append, List.map_map, List.map_congr_left before]
  exact congrArg (positions v ++ ·) (List.map_congr_left after)

theorem bitText_append {m n : Nat} (v : BitVec m) (w : BitVec n) : bitText (v ++ w) = bitText v ++ bitText w := by
  rw [bitText, positions_append, List.map_append, bitText, bitText]

/-- The digits whose rows the data field holds: zero twice, then the identifier's (42_data_field.md R120). -/
def rowDigits (u : CardId) : List Nibble :=
  0 :: 0 :: (nibbles u).toList

theorem hexText_rowDigits (u : CardId) : (rowDigits u).map hexDigitChar = '0' :: '0' :: hexTextOf u := rfl

/-- The text of the data field is the text of its rows, in order: the concatenation is taken apart row by row from its
end. -/
theorem bitText_dataFieldOf (u : CardId) :
    bitText (dataFieldOf u) = ((rowDigits u).map fun n => bitText (expand n)).flatten := by
  simp [dataFieldOf, bitText_append (n := 5), rowDigits, nibbles]

/-- Settles O36: each character of the text expands to the row of its digit, and the rows make up the data field. -/
theorem textPipelineGivesTheDataField : Obligations.TextPipelineGivesTheDataField := by
  intro u s
  refine ⟨hexTextOf u, (rowDigits u).map fun n => bitText (expand n), dataFieldOf u,
    (answers_hexText_iff u s _).2 rfl, ?rows, (answers_dataField_iff u s _).2 rfl, (bitText_dataFieldOf u).symm⟩
  rw [← hexText_rowDigits, List.forall₂_map_left_iff, List.forall₂_map_right_iff, List.forall₂_same]
  exact fun n _ => (answers_nibbleExpand_hexChar_iff (hexCharValue_hexDigitChar n) s _).2 rfl

end Sys2Proof.Machine
end

section
/-! The column parity of any 50-bit field (43_column_parity.md R140, R142), and of an identifier's (R141). -/

namespace Sys2Proof.Machine

/-- Settles O20: bit `c` is `par` of its column's ten bits, so it is their parity and makes the column even. -/
theorem columnParityResult : Obligations.ColumnParityResult := by
  intro d s
  refine ⟨columnParityOf d, execColumnParity_eq d s, fun c => ?_⟩
  rw [columnParityOf_getMsbD d c.isLt, columnParityBit]
  refine ⟨par_eq_true_iff _, ?_⟩
  rw [← (List.perm_append_singleton _ _).count_eq]
  exact count_append_par_even _

theorem nibble_getMsbD (u : CardId) (k : Fin 8) {j : Nat} (hj : j < 4) :
    (nibble u k).getMsbD j = u.getLsbD (31 - 4 * k - j) := by
  rw [BitVec.getMsbD_eq_getLsbD, decide_eq_true hj, Bool.true_and, BitVec.getLsbD_eq_getElem (by omega),
    nibble_getElem u k _ (by omega)]
  congr 1
  omega

/-- Bit `c` of the column parity is the parity of bit `c` of the eight digits. -/
theorem columnParityOf_dataFieldOf_getMsbD (u : CardId) {c : Nat} (hc : c < 4) :
    (columnParityOf (dataFieldOf u)).getMsbD c =
      par ((List.finRange 8).map fun k : Fin 8 => u.getLsbD (31 - 4 * k - c)) :=
  (columnParityOf_getMsbD _ hc).trans (columnParityBit_dataFieldOf u hc)

/-- The first form of R141, from the second: an exclusive-or is taken bit by bit. -/
theorem columnParityOf_dataFieldOf (u : CardId) :
    columnParityOf (dataFieldOf u) = nibble u 0 ^^^ nibble u 1 ^^^ nibble u 2 ^^^ nibble u 3 ^^^ nibble u 4
      ^^^ nibble u 5 ^^^ nibble u 6 ^^^ nibble u 7 := by
  refine BitVec.eq_of_getMsbD_eq fun c hc => ?_
  have digits : (List.finRange 8).map (fun k : Fin 8 => u.getLsbD (31 - 4 * k - c)) =
      (List.finRange 8).map fun k => (nibble u k).getMsbD c :=
    List.map_congr_left fun k _ => (nibble_getMsbD u k hc).symm
  have eight : List.finRange 8 = [0, 1, 2, 3, 4, 5, 6, 7] := rfl
  rw [columnParityOf_dataFieldOf_getMsbD u hc, digits, eight]
  simp only [List.map_cons, List.map_nil, par_cons, par_nil, Bool.xor_false, BitVec.getMsbD_xor, Bool.xor_assoc]

/-- Settles O21: the two leading rows are zero, so only the digits count in each column. -/
theorem columnParityIsTheXorOfTheDigits : Obligations.ColumnParityIsTheXorOfTheDigits :=
  fun u s => ⟨dataFieldOf u, columnParityOf (dataFieldOf u), (answers_dataField_iff u s _).2 rfl,
    (answers_columnParity_iff _ s _).2 rfl, columnParityOf_dataFieldOf u,
    fun c => columnParityOf_dataFieldOf_getMsbD u c.isLt⟩

end Sys2Proof.Machine
end

section
/-! The stream's fields by position (44_stream_encode.md R160, R161), position 0 first, and as slices. -/

namespace Sys2Proof.Machine

/-- A slice read from its most significant bit on. -/
theorem getMsbD_slice {n : Nat} (v : BitVec n) {start len p : Nat} (hp : p < len) (hfits : start + len ≤ n) :
    (v.extractLsb' start len).getMsbD p = v.getMsbD (n - (start + len) + p) := by
  rw [BitVec.getMsbD_extractLsb', decide_eq_true hp, decide_eq_true (show start + len - p ≤ n by omega),
    Bool.true_and, Bool.true_and]
  congr 1
  omega

/-- Stream position `p` on `stream_o` bit `63 - p` (20_memory.md R44). -/
theorem stream_getMsbD (w : Em4100Stream) {p q : Nat} (h : p + q = 63) : w.getMsbD p = w.getLsbD q := by
  rw [BitVec.getMsbD_eq_getLsbD, decide_eq_true (show p < 64 by omega), Bool.true_and]
  congr 1
  omega

section
variable (d : DataField) (cp : ColumnParity)

theorem assemble_getMsbD_header {p : Nat} (hp : p < 9) : (assemble d cp).getMsbD p = true :=
  (stream_getMsbD _ (by omega)).trans (assemble_getLsbD_header d cp hp)

theorem assemble_getMsbD_dataField {p : Nat} (hp : p < 50) : (assemble d cp).getMsbD (9 + p) = d.getMsbD p :=
  (stream_getMsbD _ (by omega)).trans (assemble_getLsbD_dataField d cp hp)

theorem assemble_getMsbD_columnParity {c : Nat} (hc : c < 4) : (assemble d cp).getMsbD (59 + c) = cp.getMsbD c :=
  (stream_getMsbD _ (by omega)).trans (assemble_getLsbD_columnParity d cp hc)

theorem assemble_getMsbD_stop : (assemble d cp).getMsbD 63 = false :=
  (stream_getMsbD _ (by omega)).trans (assemble_getLsbD_stop d cp)

theorem assemble_extractLsb'_header : (assemble d cp).extractLsb' 55 9 = 0x1FF := by
  refine BitVec.eq_of_getMsbD_eq fun p hp => ?_
  rw [getMsbD_slice _ hp (by omega), Nat.zero_add, assemble_getMsbD_header d cp hp]
  exact (BitVec.getMsbD_allOnes.trans (decide_eq_true hp)).symm

theorem assemble_extractLsb'_dataField : (assemble d cp).extractLsb' 5 50 = d :=
  BitVec.eq_of_getMsbD_eq fun p hp => by
    rw [getMsbD_slice _ hp (by omega), assemble_getMsbD_dataField d cp hp]

theorem assemble_extractLsb'_columnParity : (assemble d cp).extractLsb' 1 4 = cp :=
  BitVec.eq_of_getMsbD_eq fun p hp => by
    rw [getMsbD_slice _ hp (by omega), assemble_getMsbD_columnParity d cp hp]

theorem assemble_extractLsb'_stop : (assemble d cp).extractLsb' 0 1 = 0 :=
  BitVec.extractLsb'_append_eq_right

end

/-- Settles O22: each of the four slices is the part that was put there. -/
theorem streamAssembleResult : Obligations.StreamAssembleResult :=
  fun d cp s => ⟨assemble d cp, execStreamAssemble_eq d cp s, assemble_extractLsb'_header d cp,
    assemble_extractLsb'_dataField d cp, assemble_extractLsb'_columnParity d cp, assemble_extractLsb'_stop d cp⟩

end Sys2Proof.Machine
end

section
/-! The laws every stream of CORE satisfies (44_stream_encode.md R163 to R167, R170). -/

namespace Sys2Proof.Machine

/-- A ParityNibble's last bit is the exclusive-or of the bits before it. -/
theorem expand_parity (n : Nibble) :
    (expand n).getMsbD 4 =
      ((expand n).getMsbD 0 ^^ (expand n).getMsbD 1 ^^ (expand n).getMsbD 2 ^^ (expand n).getMsbD 3) := by
  rw [expand_getMsbD_rowParity, rowParityOf_eq]
  iterate 4 rw [expand_getMsbD_digit n (by omega)]
  rfl

/-- The row parity law of the data field (41_nibble_parity.md R102): each of its rows is a ParityNibble. -/
theorem dataFieldOf_parity (u : CardId) (r : Fin 10) :
    (dataFieldOf u).getMsbD (5 * r + 4) =
      ((dataFieldOf u).getMsbD (5 * r) ^^ (dataFieldOf u).getMsbD (5 * r + 1)
        ^^ (dataFieldOf u).getMsbD (5 * r + 2) ^^ (dataFieldOf u).getMsbD (5 * r + 3)) := by
  obtain ⟨n, row⟩ := dataFieldOf_row u r
  have bit {j : Nat} (hj : j < 5) : (dataFieldOf u).getMsbD (5 * r + j) = (expand n).getMsbD j := by
    rw [← row, getMsbD_slice _ hj (by omega)]
    congr 1
    omega
  rw [bit (by omega), bit (j := 1) (by omega), bit (j := 2) (by omega), bit (j := 3) (by omega),
    ← Nat.add_zero (5 * r.val), bit (by omega)]
  exact expand_parity n

/-- The data field stands at positions 9 to 58 of the stream. -/
theorem encodeStream_getMsbD_dataField (u : CardId) {p : Nat} (hp : p < 50) :
    (encodeStream u).getMsbD (9 + p) = (dataFieldOf u).getMsbD p :=
  assemble_getMsbD_dataField _ _ hp

/-- The column parity law, on the stream's own positions (44_stream_encode.md R167). -/
theorem encodeStream_getMsbD_columnParity (u : CardId) {c : Nat} (hc : c < 4) :
    (encodeStream u).getMsbD (59 + c) =
      par ((List.range 10).map fun r => (encodeStream u).getMsbD (9 + (5 * r + c))) := by
  have column : (List.range 10).map (fun r => (encodeStream u).getMsbD (9 + (5 * r + c))) =
      (List.range 10).map fun r => (dataFieldOf u).getMsbD (5 * r + c) :=
    List.map_congr_left fun r hr =>
      encodeStream_getMsbD_dataField u (by have := List.mem_range.1 hr; omega)
  rw [encodeStream_eq_assemble, assemble_getMsbD_columnParity _ _ hc, columnParityOf_getMsbD _ hc, columnParityBit,
    ← column, encodeStream_eq_assemble]

theorem isEm4100_encodeStream (u : CardId) : IsEm4100 (encodeStream u) where
  header p := assemble_getMsbD_header _ _ p.isLt
  stop := assemble_getMsbD_stop _ _
  rowParity r := by
    simp only [Nat.add_assoc]
    iterate 5 rw [encodeStream_getMsbD_dataField u (by omega)]
    exact dataFieldOf_parity u r
  columnParity c := by
    simp only [Nat.add_assoc]
    exact encodeStream_getMsbD_columnParity u c.isLt
  leadingRows p := by
    rw [encodeStream_getMsbD_dataField u (by omega), dataFieldOf_getMsbD_leading u p.isLt]

/-- The data field as R161 writes it: the two zero rows as one field of ten bits. -/
theorem dataFieldOf_eq (u : CardId) :
    dataFieldOf u = 0#10 ++ expand (nibble u 0) ++ expand (nibble u 1) ++ expand (nibble u 2)
      ++ expand (nibble u 3) ++ expand (nibble u 4) ++ expand (nibble u 5) ++ expand (nibble u 6)
      ++ expand (nibble u 7) := by
  have zeroRows : expand 0 ++ expand 0 = 0#10 := by decide
  rw [dataFieldOf, zeroRows]

/-- Settles O23: one transaction of CORE leaves the identifier on its input, and the stream is assembled from the data
field and its column parity. -/
theorem encodeResult : Obligations.EncodeResult :=
  fun u s => ⟨encodeStream u, execEncode_eq u s, assemble_extractLsb'_header _ _,
    (assemble_extractLsb'_dataField _ _).trans (dataFieldOf_eq u),
    fun c => encodeStream_getMsbD_columnParity u c.isLt, assemble_extractLsb'_stop _ _⟩

end Sys2Proof.Machine
end

section
/-! What everything the host gets back satisfies, whatever the operand: the shapes of the host's texts, and the parities
of CORE's rows. -/

namespace Sys2Proof.Machine

theorem length_positions {n : Nat} (v : BitVec n) : (positions v).length = n := by
  rw [positions, List.length_map, List.length_range]

theorem length_bitText {n : Nat} (v : BitVec n) : (bitText v).length = n := by
  rw [bitText, List.length_map, length_positions]

theorem bitChar_eq_zero_or_one (b : Bool) : bitChar b = '0' ∨ bitChar b = '1' := by
  cases b with
  | false => exact .inl rfl
  | true => exact .inr rfl

theorem mem_bitText {n : Nat} {v : BitVec n} {c : Char} (h : c ∈ bitText v) : c = '0' ∨ c = '1' := by
  obtain ⟨b, -, rfl⟩ := List.mem_map.1 h
  exact bitChar_eq_zero_or_one b

theorem bitChar_injective : Function.Injective bitChar := by
  decide

/-- The text of a bit sequence has as many `'1'` characters as the sequence has `1` bits. -/
theorem count_one_bitText {n : Nat} (v : BitVec n) : (bitText v).count '1' = popcount v :=
  List.count_map_of_injective (positions v) bitChar bitChar_injective true

theorem length_formatStream (w : Em4100Stream) : (formatStream w).length = 71 := by
  simp [formatStream, List.finRange, List.intercalate, length_bitText]

theorem isLowerHexChar_hexDigitChar (n : Nibble) : isLowerHexChar (hexDigitChar n) = true := by
  rw [← isSome_hexCharValue, hexCharValue_hexDigitChar, Option.isSome_some]

theorem length_hexTextOf (u : CardId) : (hexTextOf u).length = 8 := by
  rw [hexTextOf, List.length_map, Vector.length_toList]

theorem all_isLowerHexChar_hexTextOf (u : CardId) : (hexTextOf u).all isLowerHexChar = true := by
  rw [hexTextOf, List.all_map]
  exact List.all_eq_true.2 fun n _ => isLowerHexChar_hexDigitChar n

/-- A request that validates is a nonempty text of decimal digits (45_host_side.md R191). -/
theorem validate_eq_some {x : Text} {u : CardId} (h : validate x = some u) :
    x ≠ [] ∧ x.all isDecimalDigit = true := by
  unfold validate at h
  split at h
  · cases h
  · next nonempty =>
    split at h
    · cases h
    · next digits => exact ⟨by simpa using nonempty, by simpa using digits⟩

/-- Row `r` of the data field, counted from the last, has an even number of `1` bits (41_nibble_parity.md R102). -/
theorem popcount_dataFieldOf_row_even (u : CardId) (r : Fin 10) :
    popcount ((dataFieldOf u).extractLsb' (5 * r) 5) % 2 = 0 := by
  have row := dataFieldOf_row u r.rev
  rw [Fin.val_rev, show 45 - 5 * (10 - (r.val + 1)) = 5 * r.val by omega] at row
  exact (exists_eq_expand_iff _).1 row

end Sys2Proof.Machine
end

section
/-! The invariant of a run: a transaction's result is lawful, and a step adds nothing else to the host's record. -/

namespace Sys2Proof.Machine

theorem lawful_parityText (n : Nibble) : (Observation.parityText (bitText (expand n))).Lawful :=
  ⟨length_bitText _, (count_one_bitText _).symm ▸ popcount_expand_even n, fun _ => mem_bitText⟩

/-- Whatever the operand, the result of an instruction is lawful. -/
theorem resultOf_lawful (i : Instr) : (resultOf i).Lawful := by
  cases i with
  | encode u => exact isEm4100_encodeStream u
  | nibbleExpand x =>
    cases x with
    | nibble n => exact popcount_expand_even n
    | hexChar c => exact lawful_parityText _
  | dataField u => exact ⟨dataFieldOf_extractLsb'_leading u, popcount_dataFieldOf_row_even u⟩
  | streamAssemble d c => exact ⟨fun p => assemble_getMsbD_header d c p.isLt, assemble_getMsbD_stop d c⟩
  | validate x =>
    cases hx : validate x with
    | none => rw [resultOf_validate_invalid hx]; trivial
    | some u => rw [resultOf_validate_valid hx]; trivial
  | hexText u => exact ⟨length_hexTextOf u, all_isLowerHexChar_hexTextOf u⟩
  | format w => exact length_formatStream w
  | convert x =>
    cases hx : validate x with
    | none => rw [resultOf_convert_invalid hx]; trivial
    | some u =>
      rw [resultOf_convert_valid hx]
      exact ⟨length_hexTextOf u, all_isLowerHexChar_hexTextOf u, length_formatStream _, validate_eq_some hx⟩
  | hexSlice u => trivial
  | rowParity n => trivial
  | columnParity d => trivial

/-- The invariant speaks of the host's record alone. -/
theorem State.Inv.of_observed {s t : State} (hs : s.Inv) (h : t.observed = s.observed) : t.Inv := by
  rwa [State.Inv, h]

/-- A lawful observation may be added to the host's record. -/
theorem State.Inv.of_observed_cons {s t : State} {o : Observation} (hs : s.Inv) (ho : o.Lawful)
    (h : t.observed = o :: s.observed) : t.Inv := by
  rw [State.Inv, h]
  exact List.forall_mem_cons.2 ⟨ho, hs⟩

theorem perform_keeps_inv {a : HostAction} {s t : State} (hs : s.Inv) (h : perform a s = .next t) : t.Inv := by
  cases a with
  | launch l =>
    obtain ⟨i, -, rfl⟩ := perform_launch_next h
    exact hs.of_observed_cons (resultOf_lawful i) (s.after_observed i)
  | drive level =>
    obtain rfl : s.drive level = t := Host.Outcome.next.inj h
    exact hs.of_observed (s.drive_observed level)
  | hold n =>
    obtain rfl : s.hold n = t := Host.Outcome.next.inj h
    exact hs.of_observed (s.hold_observed n)
  | settle =>
    obtain rfl : s.settle = t := Host.Outcome.next.inj h
    exact hs.of_observed s.settle_observed
  | sample =>
    obtain ⟨u, -, -, rfl⟩ := State.sample_next h
    exact hs.of_observed_cons (o := .stream (encodeStream u)) (isEm4100_encodeStream u) rfl

/-- Settles O43: a step performs at most one action, and an action adds at most one observation, a lawful one. -/
theorem stepKeepsObservationsLawful : Obligations.StepKeepsObservationsLawful := by
  intro s t hs h
  obtain ⟨-, rfl⟩ | ⟨a, rest, -, performed⟩ := step_next h
  · exact hs.of_observed rfl
  · have later : State.Inv { s with pending := rest, instant := s.instant + 1 } := hs.of_observed rfl
    exact perform_keeps_inv later performed

end Sys2Proof.Machine
end

section
/-! The constant bits of a lawful word (44_stream_encode.md R170): positions 0 to 18 and 63. -/

namespace Sys2Proof.Machine

theorem streamByte_getMsbD (w : Em4100Stream) (g : Fin 8) {j : Nat} (hj : j < 8) :
    (streamByte w g).getMsbD j = w.getMsbD (8 * g + j) := by
  rw [streamByte, getMsbD_slice _ hj (by omega)]
  congr 1
  omega

theorem bitText_streamByte (w : Em4100Stream) (g : Fin 8) :
    bitText (streamByte w g) = (List.range 8).map fun j => bitChar (w.getMsbD (8 * g + j)) := by
  rw [bitText, positions, List.map_map]
  exact List.map_congr_left fun j hj => congrArg bitChar (streamByte_getMsbD w g (List.mem_range.1 hj))

/-- The display form begins with the first two bytes and three bits of the next (45_host_side.md R194). -/
theorem formatStream_take_eq_bytes (w : Em4100Stream) :
    (formatStream w).take 21 =
      bitText (streamByte w 0) ++ ' ' :: bitText (streamByte w 1) ++ ' ' :: (bitText (streamByte w 2)).take 3 := rfl

namespace IsEm4100

variable {w : Em4100Stream} (h : IsEm4100 w)
include h

/-- Positions 0 to 18: nine `1` bits, then the two zero rows. -/
theorem getMsbD_leading {p : Nat} (hp : p < 19) : w.getMsbD p = decide (p < 9) := by
  by_cases header : p < 9
  · exact (h.header ⟨p, header⟩).trans (decide_eq_true header).symm
  · obtain ⟨q, rfl⟩ := Nat.exists_eq_add_of_le (Nat.le_of_not_lt header)
    exact (h.leadingRows ⟨q, by omega⟩).trans (decide_eq_false header).symm

theorem extractLsb'_leading : w.extractLsb' 45 19 = 0b1111111110000000000 := by
  have constant : ∀ p < 19, (0b1111111110000000000#19).getMsbD p = decide (p < 9) := by decide
  refine BitVec.eq_of_getMsbD_eq fun p hp => ?_
  rw [getMsbD_slice _ hp (by omega), Nat.zero_add, h.getMsbD_leading hp]
  exact (constant p hp).symm

/-- The mask keeps positions 0 to 18 and 63, all of them constant. -/
theorem and_mask : w &&& 0xFFFFE00000000001#64 = 0xFF80000000000000#64 := by
  have mask : ∀ p < 64, (0xFFFFE00000000001#64).getMsbD p = decide (p < 19 ∨ p = 63) := by decide
  have constant : ∀ p < 64, (0xFF80000000000000#64).getMsbD p = decide (p < 9) := by decide
  refine BitVec.eq_of_getMsbD_eq fun p hp => ?_
  rw [BitVec.getMsbD_and, mask p hp, constant p hp]
  obtain leading | last | ⟨between, notLast⟩ : p < 19 ∨ p = 63 ∨ 19 ≤ p ∧ p ≠ 63 := by omega
  · simp [h.getMsbD_leading leading, leading]
  · simp [last, h.stop]
  · have notHeader : ¬ p < 9 := by omega
    simp [between, notLast, notHeader]

/-- The first two display groups, and the beginning of the third. -/
theorem formatStream_take : (formatStream w).take 21 = "11111111 10000000 000".toList := by
  have bits (g : Fin 8) {k : Nat} (hk : k ≤ 8) (hleading : 8 * g + k ≤ 19) :
      (bitText (streamByte w g)).take k = (List.range k).map fun j => bitChar (decide (8 * g.val + j < 9)) := by
    rw [bitText_streamByte, ← List.map_take, List.take_range, Nat.min_eq_left hk]
    refine List.map_congr_left fun j hj => ?_
    have inside := List.mem_range.1 hj
    rw [h.getMsbD_leading (by omega)]
  have whole (g : Fin 8) : (bitText (streamByte w g)).take 8 = bitText (streamByte w g) :=
    List.take_of_length_le (length_bitText _).le
  rw [formatStream_take_eq_bytes, ← whole 0, ← whole 1, bits 0 (by decide) (by decide), bits 1 (by decide) (by decide),
    bits 2 (by decide) (by decide)]
  decide

end IsEm4100

/-- Settles O25: every stream is a lawful word, and the rest follows from the laws. -/
theorem streamLaws : Obligations.StreamLaws := by
  intro u s
  have lawful := isEm4100_encodeStream u
  exact ⟨encodeStream u, (answers_encode_iff u s _).2 rfl, length_positions _, lawful,
    assemble_extractLsb'_header _ _, assemble_getLsbD_stop _ _, lawful.extractLsb'_leading, lawful.and_mask,
    lawful.formatStream_take⟩

end Sys2Proof.Machine
end

section
/-! Reading the identifier back (44_stream_encode.md R168), and the image of ENCODE (R169): a lawful word is fixed by
its digits, which are those of the identifier read back from it. -/

namespace Sys2Proof.Machine

/-- Digit `k` of a word: positions `19 + 5 * k` to `22 + 5 * k` (44_stream_encode.md R168). -/
def streamDigit (w : Em4100Stream) (k : Fin 8) : Nibble :=
  w.extractLsb' (41 - 5 * k) 4

theorem streamDigit_getMsbD (w : Em4100Stream) (k : Fin 8) {j : Nat} (hj : j < 4) :
    (streamDigit w k).getMsbD j = w.getMsbD (19 + 5 * k + j) := by
  rw [streamDigit, getMsbD_slice _ hj (by omega)]
  congr 1
  omega

theorem readBack_eq (w : Em4100Stream) :
    readBack w = streamDigit w 0 ++ streamDigit w 1 ++ streamDigit w 2 ++ streamDigit w 3 ++ streamDigit w 4
      ++ streamDigit w 5 ++ streamDigit w 6 ++ streamDigit w 7 := rfl

/-- The digits of the identifier read back are those of the word: the ones after digit `k` are dropped, and it is the
last of what is left. -/
theorem nibble_readBack (w : Em4100Stream) (k : Fin 8) : nibble (readBack w) k = streamDigit w k := by
  rw [readBack_eq]
  unfold nibble
  fin_cases k <;>
    simp [BitVec.extractLsb'_append_eq_of_le (w := 4), BitVec.extractLsb'_append_eq_right (w' := 4)]

theorem encodeStream_getMsbD_digit (u : CardId) (k : Fin 8) {j : Nat} (hj : j < 4) :
    (encodeStream u).getMsbD (19 + 5 * k + j) = (nibble u k).getMsbD j := by
  rw [show 19 + 5 * k.val + j = 9 + (5 * (k + 2) + j) by omega, encodeStream_getMsbD_dataField u (by omega),
    dataFieldOf_getMsbD_digit u k hj, nibble_getMsbD u k hj]

theorem streamDigit_encodeStream (u : CardId) (k : Fin 8) : streamDigit (encodeStream u) k = nibble u k :=
  BitVec.eq_of_getMsbD_eq fun j hj => by
    rw [streamDigit_getMsbD _ k hj, encodeStream_getMsbD_digit u k hj]

theorem readBack_encodeStream (u : CardId) : readBack (encodeStream u) = u := by
  simp only [readBack_eq, streamDigit_encodeStream]
  exact nibbles_append u

/-- Settles O26: the word's digits are the identifier's, and these make up the identifier. -/
theorem readBackGivesTheIdentifier : Obligations.ReadBackGivesTheIdentifier :=
  fun u s => ⟨encodeStream u, (answers_encode_iff u s _).2 rfl, readBack_encodeStream u,
    fun k j => encodeStream_getMsbD_digit u k j.isLt⟩

theorem encodeStream_injective : Function.Injective encodeStream :=
  Function.LeftInverse.injective readBack_encodeStream

/-- Two words are equal when their headers, rows, column parities and stop bits are (30_encoding.md R64). -/
theorem stream_eq_of_fields {v w : Em4100Stream} (header : ∀ p : Fin 9, v.getMsbD p = w.getMsbD p)
    (row : ∀ (r : Fin 10) (j : Fin 5), v.getMsbD (9 + 5 * r + j) = w.getMsbD (9 + 5 * r + j))
    (columnParity : ∀ c : Fin 4, v.getMsbD (59 + c) = w.getMsbD (59 + c))
    (stop : v.getMsbD 63 = w.getMsbD 63) : v = w := by
  refine BitVec.eq_of_getMsbD_eq fun p hp => ?_
  obtain inHeader | inRows | inParity | rfl : p < 9 ∨ (9 ≤ p ∧ p < 59) ∨ (59 ≤ p ∧ p < 63) ∨ p = 63 := by omega
  · exact header ⟨p, inHeader⟩
  · rw [show p = 9 + 5 * ((p - 9) / 5) + (p - 9) % 5 by omega]
    exact row ⟨(p - 9) / 5, by omega⟩ ⟨(p - 9) % 5, by omega⟩
  · obtain ⟨c, rfl⟩ := Nat.exists_eq_add_of_le inParity.1
    exact columnParity ⟨c, by omega⟩
  · exact stop

/-- A lawful word is fixed by its digits: the laws give the header, the zero rows and the stop bit, each row parity from
its row, and the column parities from the rows. -/
theorem IsEm4100.eq_of_streamDigit_eq {v w : Em4100Stream} (hv : IsEm4100 v) (hw : IsEm4100 w)
    (digits : ∀ k, streamDigit v k = streamDigit w k) : v = w := by
  have data (r : Fin 10) {j : Nat} (hj : j < 4) : v.getMsbD (9 + 5 * r + j) = w.getMsbD (9 + 5 * r + j) := by
    obtain zeroRow | ⟨k, row⟩ := row_leading_or_digit r
    · rw [hv.getMsbD_leading (by omega), hw.getMsbD_leading (by omega)]
    · rw [show 9 + 5 * r.val + j = 19 + 5 * k + j by omega, ← streamDigit_getMsbD v k hj, digits k,
        streamDigit_getMsbD w k hj]
  refine stream_eq_of_fields (fun p => ?header) (fun r j => ?row) (fun c => ?columnParity) ?stop
  case header => rw [hv.header, hw.header]
  case row =>
    obtain inDigit | last : j.val < 4 ∨ j.val = 4 := by omega
    · exact data r inDigit
    · have first := data r (j := 0) (by omega)
      rw [Nat.add_zero] at first
      rw [last, hv.rowParity, hw.rowParity, first, data r (by omega), data r (by omega), data r (by omega)]
  case columnParity =>
    rw [hv.columnParity, hw.columnParity]
    exact congrArg par (List.map_congr_left fun r hr => data ⟨r, List.mem_range.1 hr⟩ c.isLt)
  case stop => rw [hv.stop, hw.stop]

/-- A lawful word is the stream of the identifier read back from it. -/
theorem IsEm4100.encodeStream_readBack {w : Em4100Stream} (h : IsEm4100 w) : encodeStream (readBack w) = w :=
  (isEm4100_encodeStream _).eq_of_streamDigit_eq h fun k => by
    rw [streamDigit_encodeStream, nibble_readBack]

/-- The image of ENCODE is the set of lawful words. -/
theorem exists_encodeStream_eq_iff (w : Em4100Stream) : (∃ u, encodeStream u = w) ↔ IsEm4100 w := by
  constructor
  · rintro ⟨u, rfl⟩
    exact isEm4100_encodeStream u
  · exact fun h => ⟨readBack w, h.encodeStream_readBack⟩

/-- There are as many lawful words as identifiers. -/
theorem card_isEm4100 : Nat.card { w : Em4100Stream // IsEm4100 w } = 2 ^ 32 :=
  calc Nat.card { w : Em4100Stream // IsEm4100 w }
    _ = Nat.card (Set.range encodeStream) :=
      Nat.card_congr (Equiv.subtypeEquivRight fun w => (exists_encodeStream_eq_iff w).symm)
    _ = Nat.card CardId := Nat.card_range_of_injective encodeStream_injective
    _ = Nat.card (Fin (2 ^ 32)) := Nat.card_congr BitVec.equivFin.toEquiv
    _ = 2 ^ 32 := Nat.card_fin _

/-- Settles O27: reading back undoes ENCODE on identifiers, and ENCODE undoes reading back on lawful words. -/
theorem encodeIsInjectiveWithTheLawfulWordsAsImage : Obligations.EncodeIsInjectiveWithTheLawfulWordsAsImage := by
  intro s
  simp only [answers_encode_iff, Observation.stream.injEq]
  refine ⟨?injective, fun w => ?image, card_isEm4100⟩
  case injective =>
    rintro u v _ rfl same
    exact encodeStream_injective same
  case image =>
    rw [← exists_encodeStream_eq_iff]
    exact exists_congr fun u => eq_comm

end Sys2Proof.Machine
end

section
/-! The host's duty (45_host_side.md R198): a step completes exactly when it is met, and what does not complete is
refused, since nothing faults. -/

namespace Sys2Proof.Machine

theorem refused_iff_not_next (r : Host.Outcome State Fault Refusal) :
    (∃ e, r = .refused e) ↔ ¬ ∃ t, r = .next t := by
  cases r with
  | next t => simp
  | fault f => cases f
  | refused e => simp

theorem perform_launch_completes_iff (l : Launch) (s : State) :
    (∃ t, perform (.launch l) s = .next t) ↔ ∃ i, decode l = .ok i := by
  constructor
  · rintro ⟨t, performed⟩
    obtain ⟨i, decoded, -⟩ := perform_launch_next performed
    exact ⟨i, decoded⟩
  · rintro ⟨i, decoded⟩
    obtain ⟨wellFormed, -⟩ := encodeOfDecodeIsTheLaunch l i decoded
    exact ⟨s.after i, (perform_launch_of_decode decoded s).trans (exec_of_wellFormed wellFormed s)⟩

theorem State.sample_completes_iff (s : State) (view : Em4100Stream → Observation) :
    (∃ t, s.sample view = .next t) ↔ s.uidI ≠ none ∧ s.stability.isSettled = true := by
  constructor
  · rintro ⟨t, sampled⟩
    obtain ⟨u, driven, settled, -⟩ := State.sample_next sampled
    exact ⟨Option.ne_none_iff_exists'.2 ⟨u, driven⟩, settled⟩
  · rintro ⟨driven, settled⟩
    obtain ⟨u, hu⟩ := Option.ne_none_iff_exists'.1 driven
    exact ⟨_, State.sample_of_settled hu settled view⟩

/-- With nothing asked for, or an action on the input port next, the host has no duty to meet; else the duty is that of
the launch or of the sample. -/
theorem step_completes_iff_dutyMet (s : State) : (∃ t, step s = .next t) ↔ s.DutyMet := by
  cases hp : s.pending with
  | nil =>
    simp only [State.DutyMet, hp, iff_true]
    exact ⟨_, step_nil hp⟩
  | cons a rest =>
    rw [step_cons hp]
    cases a with
    | launch l =>
      simp only [State.DutyMet, hp]
      exact perform_launch_completes_iff l _
    | sample =>
      simp only [State.DutyMet, hp]
      exact State.sample_completes_iff { s with pending := rest, instant := s.instant + 1 } .stream
    | _ =>
      simp only [State.DutyMet, hp, iff_true]
      exact ⟨_, rfl⟩

/-- Settles O11: a step completes or is refused, and it completes exactly when the duty is met. -/
theorem stepIsRefusedIffTheHostBreaksItsDuty : Obligations.StepIsRefusedIffTheHostBreaksItsDuty :=
  fun s => (refused_iff_not_next (step s)).trans (not_congr (step_completes_iff_dutyMet s))

end Sys2Proof.Machine
end

section
/-! The text form of the expander (45_host_side.md R199): the two ranges of characters it takes, and the text it
gives. -/

namespace Sys2Proof.Machine

theorem isLowerHexChar_iff (c : Char) :
    isLowerHexChar c = true ↔ (48 ≤ c.toNat ∧ c.toNat ≤ 57) ∨ (97 ≤ c.toNat ∧ c.toNat ≤ 102) := by
  simp [isLowerHexChar]

theorem hexCharValue_of_digit {c : Char} (low : 48 ≤ c.toNat) (high : c.toNat ≤ 57) :
    hexCharValue c = some (BitVec.ofNat 4 (c.toNat - 48)) := by
  simp [hexCharValue, low, high]

theorem hexCharValue_of_letter {c : Char} (low : 97 ≤ c.toNat) (high : c.toNat ≤ 102) :
    hexCharValue c = some (BitVec.ofNat 4 (c.toNat - 97 + 10)) := by
  have notDigit : ¬ c.toNat ≤ 57 := by omega
  have value : c.toNat - 87 = c.toNat - 97 + 10 := by omega
  simp [hexCharValue, low, high, notDigit, value]

theorem hexCharValue_eq_none {c : Char} (h : isLowerHexChar c = false) : hexCharValue c = none := by
  simpa using (isSome_hexCharValue c).trans h

theorem decode_notHexChar {c : Char} (h : isLowerHexChar c = false) :
    decode ⟨.nibbleExpander, .text [c]⟩ = .error (.notHexDigit c) :=
  if_neg (Bool.eq_false_iff.1 h)

/-- The five characters of an expanded nibble: its bits from the most significant on, then their exclusive-or. -/
theorem bitText_expand (n : Nibble) :
    bitText (expand n) = [bitChar (n.getLsbD 3), bitChar (n.getLsbD 2), bitChar (n.getLsbD 1), bitChar (n.getLsbD 0),
      bitChar (n.getLsbD 3 ^^ n.getLsbD 2 ^^ n.getLsbD 1 ^^ n.getLsbD 0)] := by
  have five : positions (expand n) = [(expand n).getMsbD 0, (expand n).getMsbD 1, (expand n).getMsbD 2,
    (expand n).getMsbD 3, (expand n).getMsbD 4] := rfl
  rw [bitText, five, expand_getMsbD_rowParity, rowParityOf_eq]
  iterate 4 rw [expand_getMsbD_digit n (by omega)]
  rfl

/-- Settles O16: a character of either range expands as its value does, and the two ranges are the characters the
decoder takes and the hex text is made of. -/
theorem expandTextResult : Obligations.ExpandTextResult := by
  refine ⟨fun c v s hv => ?expands, fun c s notDigit notLetter => ?refused, fun u c hc => ?hexText,
    fun n s => ⟨_, execNibbleExpand_nibble n s⟩⟩
  case expands =>
    have value : hexCharValue c = some (BitVec.ofNat 4 v) := by
      obtain ⟨low, high, rfl⟩ | ⟨low, high, rfl⟩ := hv
      · exact hexCharValue_of_digit low high
      · exact hexCharValue_of_letter low high
    have text := bitText_expand (BitVec.ofNat 4 v)
    simp only [BitVec.getLsbD_ofNat, Nat.reduceLT, decide_true, Bool.true_and] at text
    rw [← text]
    exact execNibbleExpand_hexChar value s
  case refused =>
    have outside : isLowerHexChar c = false := by
      rw [Bool.eq_false_iff, Ne, isLowerHexChar_iff]
      exact not_or_intro notDigit notLetter
    exact ⟨execNibbleExpand_notHex (hexCharValue_eq_none outside) s, decode_notHexChar outside⟩
  case hexText => exact (isLowerHexChar_iff c).1 (List.all_eq_true.1 (all_isLowerHexChar_hexTextOf u) c hc)

end Sys2Proof.Machine
end

section
/-! Which requests VALIDATE takes (45_host_side.md R191), and what the host gets back from it. -/

namespace Sys2Proof.Machine

/-- A nonempty text of decimal digits whose value is the number of an identifier (45_host_side.md R191). -/
def IsValidRequest (x : Text) : Prop :=
  x ≠ [] ∧ x.all isDecimalDigit = true ∧ decimalValue x ≤ 4294967295

theorem validate_of_valid {x : Text} (h : IsValidRequest x) : validate x = some (BitVec.ofNat 32 (decimalValue x)) := by
  obtain ⟨nonempty, digits, bounded⟩ := h
  rw [validate, if_neg (by simpa using nonempty), if_neg (by simp [digits]), if_neg (by omega)]

theorem validate_of_not_valid {x : Text} (h : ¬ IsValidRequest x) : validate x = none := by
  unfold validate
  split
  · rfl
  · next nonempty =>
    split
    · rfl
    · next digits =>
      refine if_pos (Nat.lt_of_not_le fun bounded => h ⟨?_, ?_, bounded⟩)
      · simpa using nonempty
      · simpa using digits

theorem isDecimalDigit_iff (c : Char) : isDecimalDigit c = true ↔ 48 ≤ c.toNat ∧ c.toNat ≤ 57 := by
  simp [isDecimalDigit]

theorem decimalValue_eq_ofDigits (x : Text) :
    decimalValue x = Nat.ofDigits 10 (x.reverse.map fun c => c.toNat - 48) := by
  rw [Nat.ofDigits_eq_foldr, List.foldr_map, List.foldr_reverse]
  simp only [decimalValue, Nat.add_comm, Nat.cast_id]

theorem isValidRequest_iff (x : Text) :
    IsValidRequest x ↔ x ≠ [] ∧ (∀ c ∈ x, 48 ≤ c.toNat ∧ c.toNat ≤ 57) ∧
      Nat.ofDigits 10 (x.reverse.map fun c => c.toNat - 48) ≤ 4294967295 := by
  simp only [IsValidRequest, List.all_eq_true, isDecimalDigit_iff, decimalValue_eq_ofDigits]

/-- Settles O29: the two clauses are those of `IsValidRequest`, and a value within the bound is the identifier's. -/
theorem validateResult : Obligations.ValidateResult := by
  intro x s
  rw [← isValidRequest_iff]
  refine ⟨fun valid => ⟨BitVec.ofNat 32 (decimalValue x), ?value, ?taken⟩, fun invalid => ?rejected⟩
  case value =>
    obtain ⟨-, -, bounded⟩ := valid
    rw [← decimalValue_eq_ofDigits, BitVec.toNat_ofNat, Nat.mod_eq_of_lt (by omega)]
  case taken => exact execValidate_valid (validate_of_valid valid) s
  case rejected => exact execValidate_invalid (validate_of_not_valid invalid) s

/-- A well-formed instruction answers with its result and nothing else. -/
theorem answers_iff_of_wellFormed {i : Instr} (h : i.wellFormed = true) (s : State) (o : Observation) :
    Answers i s o ↔ o = resultOf i :=
  answers_iff_of_exec (exec_of_wellFormed h s) (s.after_observed i)

theorem answers_validate_iff (x : Text) (s : State) (o : Observation) :
    Answers (.validate x) s o ↔ o = (validate x).elim .invalidUid .cardId :=
  answers_iff_of_wellFormed rfl s o

theorem answers_validate_cardId_iff (x : Text) (s : State) (u : CardId) :
    Answers (.validate x) s (.cardId u) ↔ validate x = some u := by
  rw [answers_validate_iff]
  cases validate x <;> simp [eq_comm]

theorem answers_validate_invalidUid_iff (x : Text) (s : State) :
    Answers (.validate x) s .invalidUid ↔ validate x = none := by
  rw [answers_validate_iff]
  cases validate x <;> simp

theorem decimalValue_zero_cons (x : Text) : decimalValue ('0' :: x) = decimalValue x := rfl

theorem validate_zero_cons {x : Text} (h : x ≠ []) : validate ('0' :: x) = validate x := by
  have nonempty : x.isEmpty = false := by simpa using h
  have digits : ('0' :: x).all isDecimalDigit = x.all isDecimalDigit := rfl
  rw [validate, validate, digits, decimalValue_zero_cons, nonempty, List.isEmpty_cons]

theorem validate_zeros_append {x : Text} (h : x ≠ []) (k : Nat) :
    validate (List.replicate k '0' ++ x) = validate x := by
  induction k with
  | zero => rfl
  | succ k ih =>
    rw [List.replicate_succ, List.cons_append, validate_zero_cons (List.append_ne_nil_of_right_ne_nil _ h), ih]

/-- Settles O30: VALIDATE's answer is a function of `validate`, which leading zeros do not change. -/
theorem leadingZerosDoNotMatter : Obligations.LeadingZerosDoNotMatter := by
  intro x k s o hx
  rw [answers_validate_iff, answers_validate_iff, validate_zeros_append hx]

theorem decimalValue_toDigits (n : Nat) : decimalValue (Nat.toDigits 10 n) = n :=
  Nat.ofDigitChars_toDigits (by decide) (by decide)

theorem all_isDecimalDigit_toDigits (n : Nat) : (Nat.toDigits 10 n).all isDecimalDigit = true :=
  List.all_eq_true.2 fun c hc =>
    (isDecimalDigit_iff c).2 (Char.isDigit_iff_toNat.1 (Nat.isDigit_of_mem_toDigits (by decide) (by decide) hc))

/-- A number's decimal text is a valid request exactly when the number is an identifier's. -/
theorem isValidRequest_toDigits_iff (n : Nat) : IsValidRequest (Nat.toDigits 10 n) ↔ n < 2 ^ 32 := by
  simp only [IsValidRequest, decimalValue_toDigits, all_isDecimalDigit_toDigits, ne_eq, Nat.toDigits_ne_nil,
    not_false_eq_true, true_and]
  omega

/-- Settles O31: a number's decimal text has the number as its value, so the bound on the value decides. -/
theorem decimalTextValidatesToItsValue : Obligations.DecimalTextValidatesToItsValue := by
  intro n s
  rw [answers_validate_cardId_iff, answers_validate_invalidUid_iff, ← Nat.not_lt, ← isValidRequest_toDigits_iff]
  refine ⟨fun valid => ?_, validate_of_not_valid⟩
  rw [validate_of_valid valid, decimalValue_toDigits]

end Sys2Proof.Machine
end

section
/-! The host's texts, character by character: the hex text (45_host_side.md R193) and the display form (R194). -/

namespace Sys2Proof.Machine

theorem some_hexDigitChar (n : Nibble) : some (hexDigitChar n) = "0123456789abcdef".toList[n.toNat]? := by
  revert n; decide

theorem nibble_toNat_eq_div_mod (u : CardId) (k : Fin 8) : (nibble u k).toNat = u.toNat / 16 ^ (7 - k.val) % 16 := by
  have weight : 2 ^ (28 - 4 * k.val) = 16 ^ (7 - k.val) := by
    rw [show 28 - 4 * k.val = 4 * (7 - k) by omega, Nat.pow_mul]
  rw [nibble, BitVec.extractLsb'_toNat, Nat.shiftRight_eq_div_pow, weight]

theorem hexTextOf_getElem? (u : CardId) (k : Fin 8) : (hexTextOf u)[k.val]? = some (hexDigitChar (nibble u k)) := by
  fin_cases k <;> rfl

/-- Settles O32: character `k` is the digit character of nibble `k`, which as a number is digit `k` of the identifier. -/
theorem hexTextResult : Obligations.HexTextResult := by
  intro u s
  refine ⟨hexTextOf u, execHexText_eq u s, length_hexTextOf u, fun k => ?_⟩
  rw [hexTextOf_getElem?, some_hexDigitChar, nibble_toNat_eq_div_mod]

/-- Character `i` of the display form: eight bits of the stream and a space, over and over. -/
def displayChar (w : Em4100Stream) (i : Nat) : Char :=
  if i % 9 = 8 then ' ' else bitChar (w.getMsbD (8 * (i / 9) + i % 9))

theorem displayChar_of_bit (w : Em4100Stream) (g : Nat) {j : Nat} (hj : j < 8) :
    displayChar w (9 * g + j) = bitChar (w.getMsbD (8 * g + j)) := by
  have group : (9 * g + j) / 9 = g := by omega
  have place : (9 * g + j) % 9 = j := by omega
  rw [displayChar, group, place, if_neg (by omega)]

theorem bitText_streamByte_eq_displayChar (w : Em4100Stream) (g : Fin 8) :
    bitText (streamByte w g) = (List.range' (9 * g) 8).map (displayChar w) := by
  rw [bitText_streamByte, List.range'_eq_map_range, List.map_map]
  exact List.map_congr_left fun j hj => (displayChar_of_bit w g (List.mem_range.1 hj)).symm

/-- The eight groups and the seven spaces between them are the 71 characters. -/
theorem formatStream_eq_displayChar (w : Em4100Stream) : formatStream w = (List.range 71).map (displayChar w) := by
  rw [formatStream, List.map_congr_left fun g _ => bitText_streamByte_eq_displayChar w g]
  rfl

theorem formatStream_group (w : Em4100Stream) (g : Fin 8) :
    ((formatStream w).drop (9 * g)).take 8 = bitText (streamByte w g) := by
  have indices : ((List.range 71).drop (9 * g)).take 8 = List.range' (9 * g) 8 := by revert g; decide
  rw [formatStream_eq_displayChar, ← List.map_drop, ← List.map_take, indices, bitText_streamByte_eq_displayChar]

theorem formatStream_getElem? (w : Em4100Stream) {i : Nat} (h : i < 71) :
    (formatStream w)[i]? = some (displayChar w i) := by
  rw [formatStream_eq_displayChar, List.getElem?_map, List.getElem?_range h, Option.map_some]

/-- Settles O33: character `i` is `displayChar w i`, and a group's eight characters are its byte's bits. -/
theorem formatResult : Obligations.FormatResult :=
  fun w s => ⟨formatStream w, execFormat_eq w s, length_formatStream w, fun i => formatStream_getElem? w i.isLt,
    fun g j => streamByte_getMsbD w g j.isLt, formatStream_group w⟩

end Sys2Proof.Machine
end

section
/-! CONVERT (45_host_side.md R195 to R197): what it gives back, from what its stages give back. -/

namespace Sys2Proof.Machine

theorem answers_format_iff (w : Em4100Stream) (s : State) (o : Observation) :
    Answers (.format w) s o ↔ o = .display (formatStream w) :=
  answers_iff_of_exec (execFormat_eq w s) rfl

theorem answers_convert_invalidUid_iff (x : Text) (s : State) :
    Answers (.convert x) s .invalidUid ↔ validate x = none := by
  rw [answers_iff_of_wellFormed rfl, resultOf]
  cases validate x <;> simp

/-- Settles O34: each stage has one answer, and CONVERT's response is made of these. -/
theorem convertOfAValidRequest : Obligations.ConvertOfAValidRequest := by
  intro x u h e w s valid hexText encoded formatted
  obtain rfl := Observation.hexText.inj ((answers_hexText_iff u s _).1 hexText)
  obtain rfl := Observation.stream.inj ((answers_encode_iff u s _).1 encoded)
  obtain rfl := Observation.display.inj ((answers_format_iff _ s _).1 formatted)
  exact execConvert_valid ((answers_validate_cardId_iff x s u).1 valid) s

/-- Settles O35: VALIDATE and CONVERT give InvalidUid on the same requests, those that have no identifier. -/
theorem convertOfAnInvalidRequest : Obligations.ConvertOfAnInvalidRequest := by
  intro x s
  have validated := answers_validate_invalidUid_iff x s
  refine ⟨fun invalid => execConvert_invalid (validated.1 invalid) s,
    (answers_convert_invalidUid_iff x s).trans validated.symm, ?_⟩
  cases hx : validate x with
  | none => exact .inr (validated.2 hx)
  | some u => exact .inl ⟨u, (answers_validate_cardId_iff x s u).2 hx⟩

end Sys2Proof.Machine
end

section
/-! The host's actions on the input port (45_host_side.md R198), each as a whole next state. -/

namespace Sys2Proof.Machine

theorem State.drive_eq (s : State) (level : Option CardId) :
    s.drive level =
      { s with uidI := level, stability := if s.uidI = level then s.stability else .held 0 } := by
  by_cases same : s.uidI = level
  · rw [State.drive, if_pos same, if_pos same, ← same]
  · rw [State.drive, if_neg same, if_neg same]

theorem State.hold_of_held {s : State} {t₀ : Nat} (h : s.stability = .held t₀) (t : Nat) :
    s.hold t = { s with stability := .held (t₀ + t) } := by
  rw [State.hold, h, Stability.hold_held]

/-- A settled port stays settled. -/
theorem State.hold_of_settled {s : State} (h : s.stability = .settled) (t : Nat) : s.hold t = s := by
  rw [State.hold, h, Stability.hold_settled, ← h]

/-- Settles O37: a step performs the queue's head, and each action's next state is as its own lemma says. -/
theorem wireActionsChangeTheInputPortOnly : Obligations.WireActionsChangeTheInputPortOnly := by
  intro s rest
  refine ⟨step_nil, fun level hp => ?drive, fun t t₀ hp held => ?held, fun t hp settled => ?settled,
    fun hp => step_cons hp⟩
  all_goals refine (step_cons hp).trans (congrArg Host.Outcome.next ?_)
  case drive => exact State.drive_eq { s with pending := rest, instant := s.instant + 1 } level
  case held => exact State.hold_of_held (s := { s with pending := rest, instant := s.instant + 1 }) held t
  case settled => exact State.hold_of_settled (s := { s with pending := rest, instant := s.instant + 1 }) settled t

end Sys2Proof.Machine
end

section
/-! CORE and its sub-blocks are total (60_exceptions.md R230): their operands have fixed widths, and no check is made on
such an operand. -/

namespace Sys2Proof.Machine

/-- No operand of ENCODE or of a sub-block fails a check; of NIBBLE_EXPAND this is the 4-bit form. -/
theorem wellFormed_of_coreOperation (u : CardId) (n : Nibble) (d : DataField) (c : ColumnParity) :
    ∀ i ∈ [Instr.encode u, .hexSlice u, .rowParity n, .nibbleExpand (.nibble n), .dataField u, .columnParity d,
      .streamAssemble d c], i.wellFormed = true :=
  List.all_eq_true.1 rfl

/-- Settles O8: the operations of CORE are well-formed, so each runs to `State.after`; and the machine has no fault to
raise, its type of faults being empty (R234). -/
theorem coreNeverFaultsOrRefuses : Obligations.CoreNeverFaultsOrRefuses := by
  refine ⟨fun u n d c s i hi => ?completes, fun s f => ?noFault⟩
  case completes => exact ⟨s.after i, exec_of_wellFormed (wellFormed_of_coreOperation u n d c i hi) s⟩
  case noFault => cases f

end Sys2Proof.Machine
end

section
/-! The host's duty to hold a new level for T_PD before it samples (70_reset_and_hazards.md R264, 45_host_side.md R198). -/

namespace Sys2Proof.Machine

/-- Driving another level and then holding it, as two steps: the settling time is counted from the change. -/
theorem runSteps_drive_hold_of_change {s : State} {level : Option CardId} {t : Nat} {rest : List HostAction}
    (hp : s.pending = .drive level :: .hold t :: rest) (change : s.uidI ≠ level) :
    runSteps 2 s = .next
      { s with pending := rest, instant := s.instant + 2, uidI := level, stability := .held t } := by
  obtain ⟨-, step_drive, -⟩ := wireActionsChangeTheInputPortOnly s (.hold t :: rest)
  have driven := step_drive level hp
  rw [if_neg change] at driven
  obtain ⟨-, -, step_hold, -⟩ := wireActionsChangeTheInputPortOnly
    { s with pending := .hold t :: rest, instant := s.instant + 1, uidI := level, stability := .held 0 } rest
  have held := step_hold t 0 rfl rfl
  rw [Nat.zero_add] at held
  exact (runSteps_of_next driven 1).trans (runSteps_of_next held 0)

/-- Settles O38: the level has been held for just `t` units when it is sampled, so it is settled exactly when
T_PD is at most `t`. -/
theorem sampleCompletesOnceTheInputWasHeld : Obligations.SampleCompletesOnceTheInputWasHeld := by
  intro s u t rest hp change
  rw [runSteps_add (runSteps_drive_hold_of_change hp change) 1]
  by_cases enough : Config.tPD ≤ t
  · have settled : (Stability.held t).isSettled = true := (Stability.isSettled_held t).trans (decide_eq_true enough)
    rw [if_pos enough]
    exact runSteps_of_next (step_sample_of_settled rfl rfl settled) 0
  · have unsettled : (Stability.held t).isSettled = false :=
      (Stability.isSettled_held t).trans (decide_eq_false enough)
    rw [if_neg enough]
    exact runSteps_of_refused (step_sample_of_unsettled rfl rfl unsettled) 0

end Sys2Proof.Machine
end

section
/-! The reset state (70_reset_and_hazards.md R260). -/

namespace Sys2Proof.Machine

/-- A host that got nothing back yet got nothing unlawful. -/
theorem State.inv_of_observed_nil {s : State} (h : s.observed = []) : s.Inv := by
  rw [State.Inv, h]
  exact List.forall_mem_nil _

theorem State.reset_uidI : State.reset.uidI = none := rfl

/-- Settles O44: at reset the host's record is empty, and a sample of the undriven input is refused. -/
theorem resetIsLawfulAndUnobservable : Obligations.ResetIsLawfulAndUnobservable :=
  ⟨State.inv_of_observed_nil rfl, State.reset_uidI, State.sample_of_undriven State.reset_uidI⟩

end Sys2Proof.Machine
end
